-- ==== Sys2Proof/Word.lean ====
section
/-! DEFINITION. The unsigned bit vectors of the spec's notation (00_scope.md section 5): `u8`, `u32`, `u64`,
and the four-bit context number of a command word (30_encoding.md R70). Addition and multiplication of these
types are modulo `2^N` (R5). -/

namespace Sys2Proof

/-- `u8`: one byte of the buffer space (R50). -/
abbrev U8 := BitVec 8

/-- `u32`: a command word, a native draw of the 32-bit kinds. -/
abbrev U32 := BitVec 32

/-- `u64`: an argument, a seed, a result. -/
abbrev U64 := BitVec 64

/-- The `ctx` field of a command word: a context number `0 .. 15` (R70). -/
abbrev CtxIndex := BitVec 4

end Sys2Proof
end

