-- ==== Sys2Proof/Syntax.lean ====
section
/-! DEFINITION. The command set: one constructor of `Instr` per row of `spec/opcode_table.json`
(30_encoding.md R74), with the operands that row uses (R72). An argument a command ignores is no operand. -/

namespace Sys2Proof

/-- The four kinds of generator this hardware has (R73, codes 0 to 3). -/
inductive Kind where
  | rotateShift
  | lcgPermutation
  | cipherStream
  | classicTwister
  deriving DecidableEq, Repr

/-- The twelve commands (R74). `c` is the context number, `seed` is `ARG0` of `INIT` and `RESEED`, `addr` and
`len` are `ARG0` and `ARG1` of `FILL` (R72). -/
inductive Instr where
  /-- `INIT.RS` (R105). -/
  | initRs (c : CtxIndex) (seed : U64)
  /-- `INIT.LCG` (R106). -/
  | initLcg (c : CtxIndex) (seed : U64)
  /-- `INIT.CS` (R107). -/
  | initCs (c : CtxIndex) (seed : U64)
  /-- `INIT.MT` (R108). -/
  | initMt (c : CtxIndex) (seed : U64)
  /-- `DESTROY` (R109). -/
  | destroy (c : CtxIndex)
  /-- `RESEED` (R115). -/
  | reseed (c : CtxIndex) (seed : U64)
  /-- `NEXT32` (R110). -/
  | next32 (c : CtxIndex)
  /-- `NEXT64` (R111). -/
  | next64 (c : CtxIndex)
  /-- `NEXTD` (R112). -/
  | nextD (c : CtxIndex)
  /-- `NEXTS` (R114). -/
  | nextS (c : CtxIndex)
  /-- `FILL` (R116). -/
  | fill (c : CtxIndex) (addr len : U64)
  /-- `JUMP` (R117). -/
  | jump (c : CtxIndex)
  deriving DecidableEq, Repr

/-- The context a command names (R70); R34 says it reads and writes that context only. -/
def Instr.ctx : Instr → CtxIndex
  | .initRs c _ => c
  | .initLcg c _ => c
  | .initCs c _ => c
  | .initMt c _ => c
  | .destroy c => c
  | .reseed c _ => c
  | .next32 c => c
  | .next64 c => c
  | .nextD c => c
  | .nextS c => c
  | .fill c _ _ => c
  | .jump c => c

/-- What travels on the command ports but for `time_in` (R21): the command word and its two arguments. -/
structure Packet where
  word : U32
  arg0 : U64
  arg1 : U64
  deriving DecidableEq, Repr

/-- A command as presented at one instant: the tuple (`cmd_word`, `cmd_arg0`, `cmd_arg1`, `time_in`) of R21. -/
structure Command where
  packet : Packet
  timeIn : U64
  deriving DecidableEq, Repr

/-- What the host does to the block: it presents a command (R21), or asserts reset between two commands (R270). -/
inductive HostEvent where
  | command (cmd : Command)
  | reset
  deriving DecidableEq, Repr

end Sys2Proof
end

