-- ==== Sys2Proof/Decode.lean ====
section
/-! DEFINITION. The decoder (30_encoding.md R71, R75, R78), total on every packet and rejecting by name, the encoder
(R70, R74, R80), and the opcode table of R74 as data. -/

namespace Sys2Proof

/-- `opcode = W[31:24]` (R71). -/
def opcodeField (w : U32) : U8 := w.extractLsb' 24 8

/-- `c = W[23:20]` (R71). -/
def ctxField (w : U32) : CtxIndex := w.extractLsb' 20 4

/-- `k = W[19:16]` (R71). -/
def kindField (w : U32) : BitVec 4 := w.extractLsb' 16 4

/-- `rsv = W[15:0]` (R71). -/
def rsvField (w : U32) : BitVec 16 := w.extractLsb' 0 16

/-- The nine assigned opcodes (R74, R75). -/
def assignedOpcodes : List U8 := [0x01, 0x02, 0x03, 0x10, 0x11, 0x12, 0x13, 0x20, 0x30]

/-- Why a word is illegal (R78). -/
inductive Illegal where
  /-- The opcode is not one of the nine. -/
  | unassignedOpcode
  /-- `rsv != 0`. -/
  | reservedBits
  /-- `kind != 0` outside `INIT`. -/
  | kindBits
  deriving DecidableEq, Repr

/-- The three outcomes of decoding (R75): (a) a command, (b) `INIT` with an unrecognised kind, (c) illegal. -/
inductive Decoded where
  | command (i : Instr)
  | unknownKind (c : CtxIndex) (k : BitVec 4)
  | illegal (why : Illegal)
  deriving DecidableEq, Repr

/-- The `INIT` row of kind code `k`, where `k` is one of 0 to 3 (R73, R74). -/
def initOfKind (c : CtxIndex) (k : BitVec 4) (seed : U64) : Decoded :=
  if k = 0 then .command (.initRs c seed)
  else if k = 1 then .command (.initLcg c seed)
  else if k = 2 then .command (.initCs c seed)
  else if k = 3 then .command (.initMt c seed)
  else .unknownKind c k

/-- The command of an assigned opcode other than `INIT`'s (R74). -/
def commandOfOpcode (op : U8) (c : CtxIndex) (arg0 arg1 : U64) : Decoded :=
  if op = 0x02 then .command (.destroy c)
  else if op = 0x03 then .command (.reseed c arg0)
  else if op = 0x10 then .command (.next32 c)
  else if op = 0x11 then .command (.next64 c)
  else if op = 0x12 then .command (.nextD c)
  else if op = 0x13 then .command (.nextS c)
  else if op = 0x20 then .command (.fill c arg0 arg1)
  else if op = 0x30 then .command (.jump c)
  else .illegal .unassignedOpcode

/-- The decoding procedure of R75, its tests in that order. -/
def decode (p : Packet) : Decoded :=
  if ¬ assignedOpcodes.contains (opcodeField p.word) then .illegal .unassignedOpcode
  else if rsvField p.word ≠ 0 then .illegal .reservedBits
  else if opcodeField p.word ≠ 0x01 ∧ kindField p.word ≠ 0 then .illegal .kindBits
  else if opcodeField p.word = 0x01 then initOfKind (ctxField p.word) (kindField p.word) p.arg0
  else commandOfOpcode (opcodeField p.word) (ctxField p.word) p.arg0 p.arg1

/-- The command word with these fields (R70): `oooooooo cccc kkkk 0000000000000000`. -/
def commandWord (op : U8) (c : CtxIndex) (k : BitVec 4) : U32 := op ++ c ++ k ++ 0#16

/-- The encoder, from R74 and R80; an argument the command does not use is 0 (R80). -/
def encode : Instr → Packet
  | .initRs c seed => ⟨commandWord 0x01 c 0, seed, 0⟩
  | .initLcg c seed => ⟨commandWord 0x01 c 1, seed, 0⟩
  | .initCs c seed => ⟨commandWord 0x01 c 2, seed, 0⟩
  | .initMt c seed => ⟨commandWord 0x01 c 3, seed, 0⟩
  | .destroy c => ⟨commandWord 0x02 c 0, 0, 0⟩
  | .reseed c seed => ⟨commandWord 0x03 c 0, seed, 0⟩
  | .next32 c => ⟨commandWord 0x10 c 0, 0, 0⟩
  | .next64 c => ⟨commandWord 0x11 c 0, 0, 0⟩
  | .nextD c => ⟨commandWord 0x12 c 0, 0, 0⟩
  | .nextS c => ⟨commandWord 0x13 c 0, 0, 0⟩
  | .fill c addr len => ⟨commandWord 0x20 c 0, addr, len⟩
  | .jump c => ⟨commandWord 0x30 c 0, 0, 0⟩

/-- One row of the table of R74. -/
structure OpcodeRow where
  mnemonic : String
  mask : U32
  pattern : U32
  deriving DecidableEq, Repr

/-- The row of R74 an instruction stands for: `W` is that command exactly when `W & mask = match`. -/
def Instr.row : Instr → OpcodeRow
  | .initRs _ _ => ⟨"INIT.RS", 0xFF0FFFFF, 0x01000000⟩
  | .initLcg _ _ => ⟨"INIT.LCG", 0xFF0FFFFF, 0x01010000⟩
  | .initCs _ _ => ⟨"INIT.CS", 0xFF0FFFFF, 0x01020000⟩
  | .initMt _ _ => ⟨"INIT.MT", 0xFF0FFFFF, 0x01030000⟩
  | .destroy _ => ⟨"DESTROY", 0xFF0FFFFF, 0x02000000⟩
  | .reseed _ _ => ⟨"RESEED", 0xFF0FFFFF, 0x03000000⟩
  | .next32 _ => ⟨"NEXT32", 0xFF0FFFFF, 0x10000000⟩
  | .next64 _ => ⟨"NEXT64", 0xFF0FFFFF, 0x11000000⟩
  | .nextD _ => ⟨"NEXTD", 0xFF0FFFFF, 0x12000000⟩
  | .nextS _ => ⟨"NEXTS", 0xFF0FFFFF, 0x13000000⟩
  | .fill _ _ _ => ⟨"FILL", 0xFF0FFFFF, 0x20000000⟩
  | .jump _ => ⟨"JUMP", 0xFF0FFFFF, 0x30000000⟩

/-- The packet whose bits, counted from bit 0 of the command word, are the low `nbits` bits of `w`: the word in
bits 31:0, `ARG0` in 95:32, `ARG1` in 159:96, every bit from `nbits` up 0. The three are separate ports (R21), so
their order behind the word is the model's own. DESIGN CHOICE, log 10. Safe: the table gives every row 32 bits. -/
def packetOfBits (nbits w : Nat) : Packet :=
  let v := w % 2 ^ nbits
  { word := BitVec.ofNat 32 v, arg0 := BitVec.ofNat 64 (v >>> 32), arg1 := BitVec.ofNat 64 (v >>> 96) }

/-- The instruction the decoder reads from the bits `w`, none where it answers no command (R75 cases b and c). -/
def decodeTableWord (nbits w : Nat) : Option Instr :=
  match decode (packetOfBits nbits w) with
  | .command i => some i
  | .unknownKind _ _ => none
  | .illegal _ => none

end Sys2Proof
end

