-- ==== Sys2Proof/Config.lean ====
section
/-! DEFINITION. What is fixed when the block is built (00_scope.md R4, 10_state.md R25): one record with a field for
every parameter of R4. The values of the record stand in `Machine/Params.lean`, so that an audit against the
repository changes a value and not a definition (U13). -/

namespace Sys2Proof.Config

/-- `MT_TEMPER = (u, s, b, t, c, l)` (R4, R183). -/
structure Temper where
  u : Nat
  s : Nat
  b : U32
  t : Nat
  c : U32
  l : Nat
  deriving DecidableEq, Repr

/-- The parameters of R4, one field each; the two proofs say that the word arrays a draw reads are not empty. Only
configuration holds functions; State holds none. -/
structure Params where
  /-- `NCTX`, the number of generator contexts (R24). -/
  nctx : Nat
  /-- `AW`, the width of a buffer address (R50). -/
  aw : Nat
  /-- `SEED_W`, the width of a seed. -/
  seedW : Nat
  /-- `SeedMix`, the rotate-shift seed expansion (R141). -/
  seedMix : BitVec seedW → Vector U64 4
  /-- `RS_R`, the output rotate (R143). -/
  rsR : Nat
  /-- `RS_A`, the left shift of the linear update (R143). -/
  rsA : Nat
  /-- `RS_B`, the final rotate of `s3` (R143). -/
  rsB : Nat
  /-- `JUMP_POLY[0..3]` (R221). -/
  jumpPoly : Vector U64 4
  /-- `LCG_MUL` (R163). -/
  lcgMul : U64
  /-- `LCG_ROT_BITS` (R163, U9). -/
  lcgRotBits : Nat
  /-- `LCG_XS_SHIFT` (R163). -/
  lcgXsShift : Nat
  /-- `LCG_OUT_SHIFT` (R163). -/
  lcgOutShift : Nat
  /-- `LcgInitState`, of the seed and the increment (R161). -/
  lcgInitState : BitVec seedW → U64 → U64
  /-- `MT_N`, the twister's word count (R29). -/
  mtN : Nat
  mtN_pos : 0 < mtN
  /-- `MT_M`, the twister offset (R182). -/
  mtM : Nat
  /-- `MT_MATRIX_A` (R182). -/
  mtMatrixA : U32
  /-- `MT_INIT_MUL` (R181). -/
  mtInitMul : U32
  /-- `MT_UPPER` (R182). -/
  mtUpper : U32
  /-- `MT_LOWER` (R182). -/
  mtLower : U32
  /-- `MT_TEMPER` (R183). -/
  mtTemper : Temper
  /-- `CS_N`, the cipher-stream core's word count (R28). -/
  csN : Nat
  csN_pos : 0 < csN
  /-- `CsInit`, the cipher-stream word derivation (R201). -/
  csInit : BitVec seedW → Vector U32 csN

end Sys2Proof.Config
end

