-- ==== Sys2Proof/Machine/Params.lean ====
section
/-! DEFINITION. The values of the parameters (00_scope.md R4). Those marked `decision` or `gk` in R4 are the spec's own
defaults for what the repository leaves unsaid. UNVERIFIED against the repository, log 9; `NCTX = 4` and `AW = 64` are
defaults of open ranges, DESIGN CHOICE, log 8. Unsafe for a block built with other values. -/

namespace Sys2Proof.Machine

/-- The mixer `x -> z` of `SeedMix` (R141): multiply and xor-shift. -/
def seedMixer (x : U64) : U64 :=
  let z1 := (x ^^^ (x >>> 30)) * 0xBF58476D1CE4E5B9
  let z2 := (z1 ^^^ (z1 >>> 27)) * 0x94D049BB133111EB
  z2 ^^^ (z2 >>> 31)

/-- `SeedMix` (R141): the mixer on the running counter `seed + 0x9E3779B97F4A7C15 * i`, `i = 1 .. 4`. -/
def seedMixDefault (seed : U64) : Vector U64 4 :=
  let x1 := seed + 0x9E3779B97F4A7C15
  let x2 := x1 + 0x9E3779B97F4A7C15
  let x3 := x2 + 0x9E3779B97F4A7C15
  let x4 := x3 + 0x9E3779B97F4A7C15
  #v[seedMixer x1, seedMixer x2, seedMixer x3, seedMixer x4]

/-- `LCG_MUL` (R4, R163). -/
def lcgMulDefault : U64 := 6364136223846793005

/-- `LcgInitState` (R161), its four assignments in order. -/
def lcgInitStateDefault (seed inc : U64) : U64 :=
  let st0 : U64 := 0
  let st1 := st0 * lcgMulDefault + inc
  let st2 := st1 + seed
  st2 * lcgMulDefault + inc

/-- `CsInit` (R201): even words the low half of the seed, odd words the high half. -/
def csInitDefault (seed : U64) : Vector U32 16 :=
  let lo : U32 := seed.extractLsb' 0 32
  let hi : U32 := seed.extractLsb' 32 32
  #v[lo, hi, lo, hi, lo, hi, lo, hi, lo, hi, lo, hi, lo, hi, lo, hi]

/-- The configuration of this machine: the values of R4, one for each row of its table. -/
abbrev params : Config.Params where
  nctx := 4
  aw := 64
  seedW := 64
  seedMix := seedMixDefault
  rsR := 23
  rsA := 17
  rsB := 45
  jumpPoly := #v[0x180EC6D33CFD0ABA, 0xD5A61266F0C9392C, 0xA9582618E03FC9AA, 0x39ABDC4529B1661C]
  lcgMul := lcgMulDefault
  lcgRotBits := 3
  lcgXsShift := 18
  lcgOutShift := 27
  lcgInitState := lcgInitStateDefault
  mtN := 624
  mtN_pos := by decide
  mtM := 397
  mtMatrixA := 0x9908B0DF
  mtInitMul := 1812433253
  mtUpper := 0x80000000
  mtLower := 0x7FFFFFFF
  mtTemper := { u := 11, s := 7, b := 0x9D2C5680, t := 15, c := 0xEFC60000, l := 18 }
  csN := 16
  csN_pos := by decide
  csInit := csInitDefault

end Sys2Proof.Machine
end

