-- ==== Sys2Proof/Machine/State.lean ====
section
/-! DEFINITION. The state of the block as plain data (10_state.md), the ports of R21 beside it, the reasons a step can
stop, and the state after reset (R35). -/

namespace Sys2Proof.Machine

/-- Rotate-shift payload: `s[0..3]` (R26). -/
structure RsState where
  s0 : U64
  s1 : U64
  s2 : U64
  s3 : U64
  deriving DecidableEq, Repr

/-- LCG-permutation payload (R27); the spec's `state` and `inc`. -/
structure LcgState where
  state : U64
  inc : U64
  deriving DecidableEq, Repr

/-- Cipher-stream payload: the `n = CS_N` words `w[0..n-1]` and the read position held in 5 bits (R28). -/
structure CsState (n : Nat) where
  w : Vector U32 n
  pos : BitVec 5
  deriving DecidableEq, Repr

/-- Classic twister payload: the `n = MT_N` words `mt[0..n-1]` and the read index held in 10 bits (R29). -/
structure MtState (n : Nat) where
  mt : Vector U32 n
  idx : BitVec 10
  deriving DecidableEq, Repr

/-- A Generator: its kind (R25) and the payload of that kind, as one closed sum type (R30). The configuration gives
the word counts (R4). -/
inductive Generator (p : Config.Params) where
  | rs (st : RsState)
  | lcg (st : LcgState)
  | cs (st : CsState p.csN)
  | mt (st : MtState p.mtN)
  deriving DecidableEq, Repr

/-- One context (R24, R25): `valid = 0` is `empty`, `valid = 1` is `live`. An empty context holds no kind and no
payload (R30, R35, R109; U6: "give an empty context no payload at all"; log 4). -/
inductive Context (p : Config.Params) where
  | empty
  | live (g : Generator p)
  deriving DecidableEq, Repr

/-- The buffer space (20_memory.md R50): one byte at every address, a total map (U14), written as the list of the
addresses that do not hold `Memory.unlisted`, strictly rising, each with its byte. -/
abbrev Memory := List Host.Cell

/-- The status of a response (60_exceptions.md R240). Its four-bit code is `Status.code`. -/
inductive Status where
  | ok
  | eKind
  | eAlloc
  | eNoGen
  | eNoBuf
  | eZLen
  | eRange
  | eUnsup
  | eIllCmd
  deriving DecidableEq, Repr

/-- A response: the pair (`rsp_status`, `rsp_result`) of R21. -/
structure Response where
  status : Status
  result : U64
  deriving DecidableEq, Repr

/-- The machine, built with `params`. `ctx` and `mem` are the block's contexts and the buffer space; the other four fields are its ports.
DESIGN CHOICE, log 1 and log 7: ports stand in State because a step is a function of State alone. -/
structure State where
  /-- `ctx[0..NCTX-1]` (R24). -/
  ctx : Vector (Context params) params.nctx
  /-- The buffer space (R50). -/
  mem : Memory
  /-- The host's commands and resets still to come, the next one first (R21, R270, R283). -/
  events : List HostEvent
  /-- `time_in`, as sampled with the command in progress (R21, R252). -/
  timeIn : U64
  /-- The response of the command last executed; none when no response is pending (R21, R35). -/
  rsp : Option Response
  /-- The byte writes of the command last executed on `mw_addr`, `mw_data`, in the order made (R21, R54). -/
  writes : List Host.Cell
  deriving DecidableEq, Repr

/-- No fault exists: "all failures are returned, not thrown" (R244, R245). A failing command answers a next state
with a status. Safe: nothing can raise one. -/
inductive Fault where
  deriving DecidableEq, Repr

/-- Why a step has no meaning. -/
inductive Refusal where
  /-- Raised by an arm of `exec` whose instruction has no meaning yet; no arm raises it. Safe. -/
  | notModelled (mnemonic : String)
  /-- Raised by `INIT` and `RESEED` with `ARG0 = 0` and `time_in = 0`, whatever else holds: the host broke the duty of
  R252, and U2 says "the model carries the precondition" and "has no behaviour otherwise" (log 3). Safe: the model says
  nothing of what the block does. -/
  | zeroSeedAndZeroTime
  deriving DecidableEq, Repr

/-- The machine after power-up reset (R35, R270, R271): every context empty, no response pending, no memory written
by reset. The spec gives the host's memory no contents, so every address holds `Memory.unlisted` (DESIGN CHOICE, log 5,
unsafe; no command reads memory). No host event is pending (DESIGN CHOICE, log 1) and the `time_in` port shows 1
(DESIGN CHOICE, log 2, unsafe; every command brings its own sample, so no step from here reads it). -/
def State.reset : State where
  ctx := Vector.replicate params.nctx .empty
  mem := []
  events := []
  timeIn := 1
  rsp := none
  writes := []

end Sys2Proof.Machine
end

