-- ==== Sys2Proof/Machine/Ops.lean ====
section
/-! DEFINITION. The named operations the meanings are made of: rotates (00_scope.md R6), the little-endian byte writes
(20_memory.md R52, R54), the contexts (10_state.md R24), the response and the failure (00_scope.md section 5,
60_exceptions.md R241, R244), reset (70_reset_and_hazards.md R270), and taking the next host event (R21, R100).
There is no exception entry and no return from one (R244, R245): `State.fail` is the whole failure mechanism. -/

namespace Sys2Proof.Machine

/-! ### Rotates (R6) -/

/-- `rotl64(x, k)` for `1 <= k <= 63` (R6). -/
def rotl64 (x : U64) (k : Nat) : U64 := (x <<< k) ||| (x >>> (64 - k))

/-- `rotr32(x, r)` for `0 <= r <= 31`; `r = 0` gives `x` (R6). -/
def rotr32 (x : U32) (r : Nat) : U32 := if r = 0 then x else (x >>> r) ||| (x <<< (32 - r))

/-! ### The buffer space (R50, R52, R54) -/

/-- The byte of an address no write has changed since power-up. The spec gives the host's memory no contents.
DESIGN CHOICE, log 5. Unsafe for a claim about a byte that neither the block nor the host has written. -/
def Memory.unlisted : U8 := 0

/-- The byte at an address (R50, U14): every address holds one. -/
def Memory.read (m : Memory) (a : Nat) : U8 :=
  match m with
  | [] => Memory.unlisted
  | x :: rest => if x.1 = a then x.2 else Memory.read rest a

/-- The list with the entry for an address put in its place, or replaced. -/
def Memory.insert (m : Memory) (a : Nat) (b : U8) : Memory :=
  match m with
  | [] => [(a, b)]
  | x :: rest =>
    if a < x.1 then (a, b) :: x :: rest
    else if a = x.1 then (a, b) :: rest
    else x :: Memory.insert rest a b

/-- One byte write at the port (R54). Writing what an unlisted address holds takes the entry out. -/
def Memory.write (m : Memory) (a : Nat) (b : U8) : Memory :=
  if b = Memory.unlisted then m.filter fun x => x.1 != a else m.insert a b

/-- Byte writes made one after another, in list order (R58). -/
def Memory.writeCells (m : Memory) (ws : List Host.Cell) : Memory :=
  match ws with
  | [] => m
  | x :: rest => Memory.writeCells (m.write x.1 x.2) rest

/-- The canonical form: addresses strictly rising, and no entry equal to what an unlisted address holds. -/
abbrev Memory.wf (m : Memory) : Prop := m.Pairwise (fun x y => x.1 < y.1) ∧ ∀ x ∈ m, x.2 ≠ Memory.unlisted

/-- Byte `b` of a value, `v[8b+7 : 8b]` (R52). -/
def byteOf (v : U64) (b : Nat) : U8 := v.extractLsb' (8 * b) 8

/-- The byte writes of `MemWrite(addr, n, v)`: byte `b` to address `addr + b`, for `b = 0 .. n-1` in that order
(R52). -/
def memWriteCells (addr n : Nat) (v : U64) : List Host.Cell :=
  (List.range n).map fun b => (addr + b, byteOf v b)

/-- Byte writes at the port: they reach memory in order and appear on `mw_addr`, `mw_data` in that order. -/
def State.writeCells (s : State) (ws : List Host.Cell) : State :=
  { s with mem := s.mem.writeCells ws, writes := s.writes ++ ws }

/-! ### Contexts (R24, R25) -/

/-- `ctx[c]`; a context the hardware does not have is no Generator, as an empty one is (R101). -/
def State.context (s : State) (c : CtxIndex) : Context params :=
  if h : c.toNat < params.nctx then s.ctx[c.toNat] else .empty

/-- `ctx[c] <- x`. Only called with `c < NCTX`; the hardware has nothing to write elsewhere. -/
def State.setContext (s : State) (c : CtxIndex) (x : Context params) : State :=
  if h : c.toNat < params.nctx then { s with ctx := s.ctx.set c.toNat x } else s

/-! ### Responding (00_scope.md section 5, R241) -/

/-- `respond(status, result)`: the last act of every command. -/
def State.respond (s : State) (status : Status) (result : U64) : State :=
  { s with rsp := some ⟨status, result⟩ }

/-- `fail(E)` is `respond(E, 0)` with no context and no memory written (R120, R241, R244). -/
def State.fail (s : State) (e : Status) : State := s.respond e 0

/-! ### Reset and the host's events (R270, R21) -/

/-- The reset event: every context empty, no response pending, memory untouched (R35, R270). The host's own events
and the level it drives on `time_in` are not the block's to reset. -/
def State.resetEvent (s : State) : State :=
  { s with ctx := Vector.replicate params.nctx .empty, rsp := none, writes := [] }

/-- The block takes the tuple (`W`, `ARG0`, `ARG1`, `time_in`) of R100: the event leaves the host's list, `time_in` is
sampled, and the ports show nothing of an earlier command, which the block does not keep (R33). -/
def State.accept (s : State) (cmd : Command) (rest : List HostEvent) : State :=
  { s with events := rest, timeIn := cmd.timeIn, rsp := none, writes := [] }

/-- The host has broken the duty of R252 with an `INIT` or `RESEED`: its seed would be the literal 0. -/
abbrev dutyBroken (arg0 timeIn : U64) : Prop := arg0 = 0 ∧ timeIn = 0

/-- What the next host event asks of a step: to execute an instruction in a state, nothing more than to be in a state,
or to refuse. -/
inductive Fetched where
  | run (i : Instr) (s : State)
  | done (s : State)
  | stop (why : Refusal)
  deriving DecidableEq, Repr

/-- Step (1) of R100: take the next event and decode it (R75). `INIT` with an unrecognised kind answers `E_KIND`
(R104), but is an `INIT`, so the model refuses it when the duty of R252 is broken (U2; DEDUCED, log 3, safe). An illegal
word answers `E_ILLCMD` (R78). With no event the block is idle and nothing happens (R246, R254; DEDUCED, log 6,
safe). -/
def State.fetch (s : State) : Fetched :=
  match s.events with
  | [] => .done s
  | .reset :: rest => .done { s with events := rest }.resetEvent
  | .command cmd :: rest =>
    match decode cmd.packet with
    | .command i => .run i (s.accept cmd rest)
    | .unknownKind _ _ =>
      if dutyBroken cmd.packet.arg0 cmd.timeIn then .stop .zeroSeedAndZeroTime
      else .done ((s.accept cmd rest).fail .eKind)
    | .illegal _ => .done ((s.accept cmd rest).fail .eIllCmd)

/-- The host presents, before its other events, the command whose bits are the low `nbits` bits of `w`, with the level
`time_in` has now (log 1, log 2). -/
def State.present (s : State) (nbits w : Nat) : State :=
  { s with events := .command ⟨packetOfBits nbits w, s.timeIn⟩ :: s.events }

end Sys2Proof.Machine
end

