-- ==== Sys2Proof/Machine/CipherStream.lean ====
section
/-! DEFINITION. The cipher-stream core (44_cipher_stream.md). It is a placeholder and NOT cryptographically secure
(R200, R278). -/

namespace Sys2Proof.Machine

/-- `CsSeed` (R202). -/
def csSeed (p : Config.Params) (seed : BitVec p.seedW) : CsState p.csN := { w := p.csInit seed, pos := 0 }

/-- The first line of `CsDraw`: a used-up position is reset, `w` is not derived again (R203). -/
def csReady (p : Config.Params) (st : CsState p.csN) : CsState p.csN :=
  if p.csN ≤ st.pos.toNat then { st with pos := 0 } else st

theorem csReady_pos_lt (p : Config.Params) (st : CsState p.csN) : (csReady p st).pos.toNat < p.csN := by
  unfold csReady
  split
  · exact p.csN_pos
  · omega

/-- `CsDraw` (R203). -/
def csDraw (p : Config.Params) (st : CsState p.csN) : U32 × CsState p.csN :=
  ((csReady p st).w[(csReady p st).pos.toNat]'(csReady_pos_lt p st),
    { csReady p st with pos := (csReady p st).pos + 1 })

end Sys2Proof.Machine
end

