-- ==== Sys2Proof/Machine/ClassicTwister.lean ====
section
/-! DEFINITION. The classic twister (43_classic_twister.md). -/

namespace Sys2Proof.Machine

/-- The seeding recurrence: `mt[0]` is given, `mt[i]` follows from `mt[i-1]` (R181). -/
def mtSeedWord (p : Config.Params) (first : U32) : Nat → U32
  | 0 => first
  | i + 1 =>
    p.mtInitMul * (mtSeedWord p first i ^^^ (mtSeedWord p first i >>> 30)) + BitVec.ofNat 32 (i + 1)

/-- `MtSeed` (R181): the recurrence from `seed[31:0]`, and `idx = MT_N`, "needs regeneration". -/
def mtSeed (p : Config.Params) (seed : BitVec p.seedW) : MtState p.mtN where
  mt := ⟨((List.range p.mtN).map (mtSeedWord p (seed.extractLsb' 0 32))).toArray, by simp⟩
  idx := BitVec.ofNat 10 p.mtN

/-- The word written for index `k` in a regeneration, from the words at `k`, `k+1` and `k+MT_M` (R182). -/
def mtTwistWord (p : Config.Params) (wk wk1 wkm : U32) : U32 :=
  let y := (wk &&& p.mtUpper) ||| (wk1 &&& p.mtLower)
  let v := wkm ^^^ (y >>> 1)
  if y.getLsbD 0 then v ^^^ p.mtMatrixA else v

/-- One iteration of the loop of R182, at index `k`, on the array as it stands. -/
def mtTwistAt (p : Config.Params) (mt : Vector U32 p.mtN) (k : Nat) : Vector U32 p.mtN :=
  mt.set (k % p.mtN)
    (mtTwistWord p (mt[k % p.mtN]'(Nat.mod_lt _ p.mtN_pos))
      (mt[(k + 1) % p.mtN]'(Nat.mod_lt _ p.mtN_pos))
      (mt[(k + p.mtM) % p.mtN]'(Nat.mod_lt _ p.mtN_pos)))
    (Nat.mod_lt _ p.mtN_pos)

/-- The array after the iterations `k = 0 .. n-1` of the loop of R182: in place, in ascending order, so that an
iteration reads the words an earlier one has rewritten. -/
def mtRegenLoop (p : Config.Params) (mt : Vector U32 p.mtN) : Nat → Vector U32 p.mtN
  | 0 => mt
  | n + 1 => mtTwistAt p (mtRegenLoop p mt n) n

/-- `MtRegen` (R182): all words rewritten, `idx = 0`. -/
def mtRegen (p : Config.Params) (st : MtState p.mtN) : MtState p.mtN where
  mt := mtRegenLoop p st.mt p.mtN
  idx := 0

/-- `MtTemper` (R183): each line uses the `y` of the line before. -/
def mtTemper (p : Config.Params) (y : U32) : U32 :=
  let y1 := y ^^^ (y >>> p.mtTemper.u)
  let y2 := y1 ^^^ ((y1 <<< p.mtTemper.s) &&& p.mtTemper.b)
  let y3 := y2 ^^^ ((y2 <<< p.mtTemper.t) &&& p.mtTemper.c)
  y3 ^^^ (y3 >>> p.mtTemper.l)

/-- The first line of `MtDraw`: regenerate when the read index has reached `MT_N` (R183). -/
def mtReady (p : Config.Params) (st : MtState p.mtN) : MtState p.mtN := if p.mtN ≤ st.idx.toNat then mtRegen p st else st

theorem mtReady_idx_lt (p : Config.Params) (st : MtState p.mtN) : (mtReady p st).idx.toNat < p.mtN := by
  unfold mtReady
  split
  · exact p.mtN_pos
  · omega

/-- `MtDraw` (R183). -/
def mtDraw (p : Config.Params) (st : MtState p.mtN) : U32 × MtState p.mtN :=
  (mtTemper p ((mtReady p st).mt[(mtReady p st).idx.toNat]'(mtReady_idx_lt p st)),
    { mtReady p st with idx := (mtReady p st).idx + 1 })

end Sys2Proof.Machine
end

