-- ==== Sys2Proof/Machine/LcgPermutation.lean ====
section
/-! DEFINITION. The LCG-permutation core (42_lcg_permutation.md). -/

namespace Sys2Proof.Machine

/-- `LcgSeed` (R162); the increment is 64 bits wide (R27). -/
def lcgSeed (p : Config.Params) (seed : BitVec p.seedW) : LcgState :=
  let inc := (seed.setWidth 64 <<< 1) ||| 1
  { state := p.lcgInitState seed inc, inc := inc }

/-- The state update of `LcgDraw` (R163). -/
def lcgUpdate (p : Config.Params) (st : LcgState) : LcgState := { st with state := st.state * p.lcgMul + st.inc }

/-- The output of `LcgDraw`: xorshift, slice and rotate, all of the state before the update (R163). -/
def lcgOutput (p : Config.Params) (old : U64) : U32 :=
  let xs : U32 := (((old >>> p.lcgXsShift) ^^^ old) >>> p.lcgOutShift).setWidth 32
  let rot := (old >>> (64 - p.lcgRotBits)).toNat
  rotr32 xs rot

/-- `LcgDraw` (R163). -/
def lcgDraw (p : Config.Params) (st : LcgState) : U32 × LcgState := (lcgOutput p st.state, lcgUpdate p st)

end Sys2Proof.Machine
end

