-- ==== Sys2Proof/Machine/RotateShift.lean ====
section
/-! DEFINITION. The rotate-shift core (41_rotate_shift.md) and the jump-ahead module (45_jump_ahead.md). -/

namespace Sys2Proof.Machine

/-- `RsSeed` (R142): the four words are `SeedMix(seed)`. -/
def rsSeed (p : Config.Params) (seed : BitVec p.seedW) : RsState :=
  let out := p.seedMix seed
  ⟨out[0], out[1], out[2], out[3]⟩

/-- The output of `RsStep`, computed from the state before the update (R143). -/
def rsOutput (p : Config.Params) (st : RsState) : U64 := rotl64 (st.s0 + st.s3) p.rsR + st.s0

/-- The state update of `RsStep`, its six lines in the order of R143. -/
def rsUpdate (p : Config.Params) (st : RsState) : RsState :=
  let t := st.s1 <<< p.rsA
  let s2 := st.s2 ^^^ st.s0
  let s3 := st.s3 ^^^ st.s1
  let s1 := st.s1 ^^^ s2
  let s0 := st.s0 ^^^ s3
  ⟨s0, s1, s2 ^^^ t, rotl64 s3 p.rsB⟩

/-- `RsStep` (R143). -/
def rsStep (p : Config.Params) (st : RsState) : U64 × RsState := (rsOutput p st, rsUpdate p st)

/-- Word by word exclusive-or: the accumulation of R221. -/
def RsState.xor (a b : RsState) : RsState := ⟨a.s0 ^^^ b.s0, a.s1 ^^^ b.s1, a.s2 ^^^ b.s2, a.s3 ^^^ b.s3⟩

/-- The all-zero words: the accumulators at the start of R221. -/
def RsState.zero : RsState := ⟨0, 0, 0, 0⟩

/-- The bits of `JUMP_POLY` in scan order: word 0 first, least significant bit first (R221). -/
def jumpBits (p : Config.Params) : List Bool :=
  p.jumpPoly.toList.flatMap fun w => (List.range 64).map w.getLsbD

/-- The scan of R221: accumulate on a set bit, step once for every bit scanned; the result is the accumulators. -/
def jumpScan (p : Config.Params) (bits : List Bool) (acc st : RsState) : RsState :=
  match bits with
  | [] => acc
  | b :: rest => jumpScan p rest (if b then acc.xor st else acc) (rsStep p st).2

/-- `RsJump` (R221). -/
def rsJump (p : Config.Params) (st : RsState) : RsState := jumpScan p (jumpBits p) .zero st

end Sys2Proof.Machine
end

