-- ==== Sys2Proof/Machine/Generators.lean ====
section
/-! DEFINITION. The Generator Facade (40_facade_commands.md R103, R113, R115, R116): dispatch on the kind of a
Generator, the double derived from a draw, and the byte stream of a `FILL`. -/

namespace Sys2Proof.Machine

/-- The kind of a Generator (R25). -/
def Generator.kind {p : Config.Params} : Generator p → Kind
  | .rs _ => .rotateShift
  | .lcg _ => .lcgPermutation
  | .cs _ => .cipherStream
  | .mt _ => .classicTwister

/-- A freshly seeded Generator of a kind: `RsSeed`, `LcgSeed`, `CsSeed` or `MtSeed` (R105 to R108, R115). -/
def Generator.ofSeed (p : Config.Params) (k : Kind) (seed : BitVec p.seedW) : Generator p :=
  match k with
  | .rotateShift => .rs (rsSeed p seed)
  | .lcgPermutation => .lcg (lcgSeed p seed)
  | .cipherStream => .cs (csSeed p seed)
  | .classicTwister => .mt (mtSeed p seed)

/-- `Draw32` (R103): rotate-shift truncates one 64-bit step, the other kinds make one native draw. -/
def draw32 (p : Config.Params) : Generator p → U32 × Generator p
  | .rs st => ((rsStep p st).1.setWidth 32, .rs (rsStep p st).2)
  | .lcg st => ((lcgDraw p st).1, .lcg (lcgDraw p st).2)
  | .cs st => ((csDraw p st).1, .cs (csDraw p st).2)
  | .mt st => ((mtDraw p st).1, .mt (mtDraw p st).2)

/-- Two 32-bit draws, the first in bits 63:32 (R103). -/
def drawPair (p : Config.Params) (g : Generator p) : U64 × Generator p :=
  let hi := draw32 p g
  let lo := draw32 p hi.2
  (hi.1 ++ lo.1, lo.2)

/-- `Draw64` (R103): native for rotate-shift, two 32-bit draws for the other kinds. -/
def draw64 (p : Config.Params) : Generator p → U64 × Generator p
  | .rs st => ((rsStep p st).1, .rs (rsStep p st).2)
  | .lcg st => drawPair p (.lcg st)
  | .cs st => drawPair p (.cs st)
  | .mt st => drawPair p (.mt st)

/-- `Binary64(k)` for `0 <= k < 2^53` (R113): the pattern of the double `k * 2^-53`. -/
def binary64 (k : Nat) : U64 :=
  if k = 0 then 0
  else
    let top := Nat.log2 k
    0#1 ++ BitVec.ofNat 11 (970 + top) ++ BitVec.ofNat 52 ((k - 2 ^ top) <<< (52 - top))

/-- The double of a 64-bit draw: its high 53 bits `x[63:11]`, scaled by `2^-53` (R112). -/
def doubleOfDraw (x : U64) : U64 := binary64 (x >>> 11).toNat

/-- The byte writes of a `FILL` at `addr` of `full` whole chunks and `rem` more bytes, and the Generator after its
draws (R116). A partial chunk takes one whole draw and writes its low-order bytes. -/
def fillCells (p : Config.Params) (full rem addr : Nat) (g : Generator p) : List Host.Cell × Generator p :=
  match full with
  | 0 =>
    if rem = 0 then ([], g)
    else
      let d := draw64 p g
      (memWriteCells addr rem d.1, d.2)
  | n + 1 =>
    let d := draw64 p g
    let later := fillCells p n rem (addr + 8) d.2
    (memWriteCells addr 8 d.1 ++ later.1, later.2)

end Sys2Proof.Machine
end

