-- ==== Sys2Proof/Machine/Operands.lean ====
section
/-! DEFINITION. The operands of a command and the checks made on them (40_facade_commands.md): the Generator a command
names (R101), the effective seed (R102), the buffer of a `FILL` (R116). -/

namespace Sys2Proof.Machine

/-- The outcome of executing one command. -/
abbrev Result := Host.Outcome State Fault Refusal

/-- The command ends with `fail(E)` (R100 step 2). -/
def failed (s : State) (e : Status) : Result := .next (s.fail e)

/-- The null-generator check and the Generator it finds (R101). -/
def withGenerator (c : CtxIndex) (s : State) (f : Generator params → Result) : Result :=
  match s.context c with
  | .empty => failed s .eNoGen
  | .live g => f g

/-- `SeedEff(a, t)` (R102). -/
def seedEff (a t : U64) : U64 := if a ≠ 0 then a else t

/-- The seed at the width `SEED_W` the seed functions take; an argument is that wide, so it is used as it stands
(R4, R72). -/
def seedBits (p : Config.Params) (e : U64) : BitVec p.seedW := e.setWidth p.seedW

/-- The precondition of `INIT` and `RESEED`: unless the host has broken the duty of R252, the command does `r`, and its
effective seed is not the literal 0. If the host has, the model has no behaviour, whatever the checks of the command
would find (U2, log 3). -/
def withSeedDuty (seed : U64) (s : State) (r : Result) : Result :=
  if dutyBroken seed s.timeIn then .refused .zeroSeedAndZeroTime else r

/-- The first check of `FILL` on its buffer that fails, if any: null buffer, zero length, out of range, in that order
(R116, R55, R56). -/
def fillCheck (p : Config.Params) (addr len : U64) : Option Status :=
  if addr = 0 then some .eNoBuf
  else if len = 0 then some .eZLen
  else if 2 ^ p.aw ≤ addr.toNat ∨ 2 ^ p.aw < addr.toNat + len.toNat then some .eRange
  else none

end Sys2Proof.Machine
end

