-- ==== Sys2Proof/Machine/Bulk.lean ====
section
/-! DEFINITION. Bulk output: `FILL` (40_facade_commands.md R116). -/

namespace Sys2Proof.Machine

/-- `FILL` (R116): every check before the first draw; then `ceil(len/8)` draws and `len` byte writes, ascending. -/
def execFill (c : CtxIndex) (addr len : U64) (s : State) : Result :=
  withGenerator c s fun g =>
    match fillCheck params addr len with
    | some e => failed s e
    | none =>
      let f := fillCells params (len.toNat / 8) (len.toNat % 8) addr.toNat g
      .next (((s.setContext c (.live f.2)).writeCells f.1).respond .ok 0)

end Sys2Proof.Machine
end

