-- ==== Sys2Proof/Machine/Draws.lean ====
section
/-! DEFINITION. The draw commands `NEXT32`, `NEXT64`, `NEXTD`, `NEXTS` (40_facade_commands.md R110 to R114). -/

namespace Sys2Proof.Machine

/-- `NEXT32` (R110): `rsp_result[63:32]` is 0. -/
def execNext32 (c : CtxIndex) (s : State) : Result :=
  withGenerator c s fun g =>
    let d := draw32 params g
    .next ((s.setContext c (.live d.2)).respond .ok (d.1.setWidth 64))

/-- `NEXT64` (R111). -/
def execNext64 (c : CtxIndex) (s : State) : Result :=
  withGenerator c s fun g =>
    let d := draw64 params g
    .next ((s.setContext c (.live d.2)).respond .ok d.1)

/-- The draw of a double in `[0, 1)` (R112), shared by `NEXTD` and `NEXTS`. -/
def drawDouble (c : CtxIndex) (s : State) : Result :=
  withGenerator c s fun g =>
    let d := draw64 params g
    .next ((s.setContext c (.live d.2)).respond .ok (doubleOfDraw d.1))

/-- `NEXTD` (R112). -/
def execNextD (c : CtxIndex) (s : State) : Result := drawDouble c s

/-- `NEXTS` (R114): every kind of this hardware is a uniform kind, so it falls back to `NEXTD`. -/
def execNextS (c : CtxIndex) (s : State) : Result := drawDouble c s

end Sys2Proof.Machine
end

