-- ==== Sys2Proof/Machine/Lifecycle.lean ====
section
/-! DEFINITION. The lifecycle commands: `INIT` of the four kinds, `DESTROY`, `RESEED` (40_facade_commands.md R104 to
R109, R115). -/

namespace Sys2Proof.Machine

/-- The Generator that the seed functions make of `ARG0` and the `time_in` sample (R102, R105 to R108, R115). -/
def seededGenerator (k : Kind) (seed : U64) (s : State) : Generator params :=
  Generator.ofSeed params k (seedBits params (seedEff seed s.timeIn))

/-- `INIT`, common part, for a recognised kind (R104): the slot exists, the slot is free, then the payload, the kind
and `valid` are written. -/
def initContext (k : Kind) (c : CtxIndex) (seed : U64) (s : State) : Result :=
  withSeedDuty seed s
    (if params.nctx ≤ c.toNat then failed s .eAlloc
    else
      match s.context c with
      | .live _ => failed s .eAlloc
      | .empty => .next ((s.setContext c (.live (seededGenerator k seed s))).respond .ok 0))

/-- `INIT.RS` (R105). -/
def execInitRs (c : CtxIndex) (seed : U64) (s : State) : Result := initContext .rotateShift c seed s

/-- `INIT.LCG` (R106). -/
def execInitLcg (c : CtxIndex) (seed : U64) (s : State) : Result := initContext .lcgPermutation c seed s

/-- `INIT.CS` (R107). -/
def execInitCs (c : CtxIndex) (seed : U64) (s : State) : Result := initContext .cipherStream c seed s

/-- `INIT.MT` (R108). -/
def execInitMt (c : CtxIndex) (seed : U64) (s : State) : Result := initContext .classicTwister c seed s

/-- `DESTROY` (R109). -/
def execDestroy (c : CtxIndex) (s : State) : Result :=
  withGenerator c s fun _ => .next ((s.setContext c .empty).respond .ok 0)

/-- `RESEED` (R115): the whole payload is rewritten, the kind is kept. -/
def execReseed (c : CtxIndex) (seed : U64) (s : State) : Result :=
  withSeedDuty seed s
    (withGenerator c s fun g => .next ((s.setContext c (.live (seededGenerator g.kind seed s))).respond .ok 0))

end Sys2Proof.Machine
end

