-- ==== Sys2Proof/Machine/StreamControl.lean ====
section
/-! DEFINITION. Stream control: `JUMP` (40_facade_commands.md R117). -/

namespace Sys2Proof.Machine

/-- `JUMP` (R117): rotate-shift only; on any other kind nothing changes, not even one draw is consumed. -/
def execJump (c : CtxIndex) (s : State) : Result :=
  withGenerator c s fun g =>
    match g with
    | .rs st => .next ((s.setContext c (.live (.rs (rsJump params st)))).respond .ok 0)
    | .lcg _ => failed s .eUnsup
    | .cs _ => failed s .eUnsup
    | .mt _ => failed s .eUnsup

end Sys2Proof.Machine
end

