-- ==== Sys2Proof/Machine/Dispatch.lean ====
section
/-! DEFINITION. One arm per command of the opcode table (30_encoding.md R74). -/

namespace Sys2Proof.Machine

def exec (i : Instr) (s : State) : Host.Outcome State Fault Refusal :=
  match i with
  | .initRs c seed => Sys2Proof.Machine.execInitRs c seed s
  | .initLcg c seed => Sys2Proof.Machine.execInitLcg c seed s
  | .initCs c seed => Sys2Proof.Machine.execInitCs c seed s
  | .initMt c seed => Sys2Proof.Machine.execInitMt c seed s
  | .destroy c => Sys2Proof.Machine.execDestroy c s
  | .reseed c seed => Sys2Proof.Machine.execReseed c seed s
  | .next32 c => Sys2Proof.Machine.execNext32 c s
  | .next64 c => Sys2Proof.Machine.execNext64 c s
  | .nextD c => Sys2Proof.Machine.execNextD c s
  | .nextS c => Sys2Proof.Machine.execNextS c s
  | .fill c addr len => Sys2Proof.Machine.execFill c addr len s
  | .jump c => Sys2Proof.Machine.execJump c s

end Sys2Proof.Machine
end

