-- ==== Sys2Proof/Machine/Step.lean ====
section
/-! DEFINITION. One step is one whole command, or the reset event (10_state.md R20, 70_reset_and_hazards.md R270). -/

namespace Sys2Proof.Machine

/-- Take the next host event (`State.fetch`) and execute the command it decodes to (R100). -/
def step (s : State) : Host.Outcome State Fault Refusal :=
  match s.fetch with
  | .run i s' => exec i s'
  | .done s' => .next s'
  | .stop why => .refused why

/-- The state in which the host presents next the command whose bits are the low `nbits` bits of `w` (log 1). -/
def State.withFetchWord (s : State) (nbits w : Nat) : State := s.present nbits w

end Sys2Proof.Machine
end

