-- ==== Sys2Proof/Machine/Flags.lean ====
section
/-! DEFINITION. The block has no condition codes, no carry, no overflow and no sticky status (10_state.md R32): this
file holds the one outcome a command has, the four-bit status code of its response (60_exceptions.md R240). -/

namespace Sys2Proof.Machine

/-- The value on `rsp_status` (R240). Values 9 to 15 are never produced. -/
def Status.code : Status → BitVec 4
  | .ok => 0
  | .eKind => 1
  | .eAlloc => 2
  | .eNoGen => 3
  | .eNoBuf => 4
  | .eZLen => 5
  | .eRange => 6
  | .eUnsup => 7
  | .eIllCmd => 8

end Sys2Proof.Machine
end

