-- ==== Sys2Proof/WellFormed.lean ====
section
/-! DEFINITION. The two well-formedness checks of the spec. Field widths need no check: the types of `Instr` hold
exactly the values its encoding admits (30_encoding.md R70, R72). What is left is the host's duty about
`time_in` (60_exceptions.md R252) and the legal ranges of the build parameters (00_scope.md R4, R6). -/

namespace Sys2Proof

/-- An instruction is well formed with a `time_in` sample when it keeps the host's duty of R252:
`time_in != 0` whenever `ARG0 = 0` on `INIT` or `RESEED`. Every other command is well formed with any sample. -/
def Instr.wf (timeIn : U64) : Instr → Bool
  | .initRs _ seed => seed != 0 || timeIn != 0
  | .initLcg _ seed => seed != 0 || timeIn != 0
  | .initCs _ seed => seed != 0 || timeIn != 0
  | .initMt _ seed => seed != 0 || timeIn != 0
  | .reseed _ seed => seed != 0 || timeIn != 0
  | .destroy _ => true
  | .next32 _ => true
  | .next64 _ => true
  | .nextD _ => true
  | .nextS _ => true
  | .fill _ _ _ => true
  | .jump _ => true

/-- The legal ranges of `NCTX` and `AW` (R4); a seed as wide as the argument that carries it (R4, R72); rotate and
shift counts below the width they act on (R6); `pos` and `idx`, up to the word counts, fit their 5 and 10 bits (R28,
R29). -/
def Config.Params.wf (p : Config.Params) : Bool :=
  (1 ≤ p.nctx && p.nctx ≤ 16) && (1 ≤ p.aw && p.aw ≤ 64) && p.seedW == 64 && (1 ≤ p.rsR && p.rsR ≤ 63) &&
    p.rsA < 64 && (1 ≤ p.rsB && p.rsB ≤ 63) && p.lcgRotBits ≤ 5 && p.lcgXsShift < 64 && p.lcgOutShift < 64 &&
    p.mtN < 2 ^ 10 && p.csN < 2 ^ 5

end Sys2Proof
end

