-- ==== Sys2Proof/Safety.lean ====
section
/-! DEFINITION. The terms in which claims speak of the machine: the invariants of 10_state.md R31, the host's duty of
60_exceptions.md R252 over a whole run, the illegal words of 30_encoding.md R78, the life cycle of R273, and a
command moved to another context (R118). -/

namespace Sys2Proof.Machine

/-! ### Invariants (R31, R55) -/

/-- R31 items 2, 3 and 4 for one context: the increment is odd, `pos <= 16`, `idx <= 624`. -/
def Context.inv : Context params → Bool
  | .empty => true
  | .live (.rs _) => true
  | .live (.lcg st) => st.inc.getLsbD 0
  | .live (.cs st) => st.pos.toNat ≤ 16
  | .live (.mt st) => st.idx.toNat ≤ 624

/-- Memory lies below `2^AW` (R50). -/
abbrev Memory.inRange (m : Memory) : Prop := ∀ x ∈ m, x.1 < 2 ^ params.aw

/-- The write port has shown addresses from 1 to `2^AW - 1` only: address 0 is never written (R55). -/
abbrev writesInRange (ws : List Host.Cell) : Prop := ∀ x ∈ ws, 1 ≤ x.1 ∧ x.1 < 2 ^ params.aw

/-- The invariant of the block: R31 items 2 to 4 for every context, memory in its canonical form and in range, and the
byte writes in range. -/
abbrev State.inv (s : State) : Prop :=
  (∀ c : CtxIndex, (s.context c).inv = true) ∧ s.mem.wf ∧ s.mem.inRange ∧ writesInRange s.writes

/-- R31 item 5 for one context: a rotate-shift payload is not all zero. -/
def Context.rsNonzero : Context params → Bool
  | .live (.rs st) => st != .zero
  | .live (.lcg _) => true
  | .live (.cs _) => true
  | .live (.mt _) => true
  | .empty => true

/-- R31 item 5: no rotate-shift context is all zero. -/
abbrev State.rsNonzero (s : State) : Prop := ∀ c : CtxIndex, (s.context c).rsNonzero = true

/-! ### The host's duty (R252) -/

/-- The host keeps its duty with one event: a command that decodes is well formed with its `time_in` sample, and an
`INIT` of an unrecognised kind too takes no seed of 0 from a `time_in` of 0. -/
def dutyKeptBy : HostEvent → Bool
  | .reset => true
  | .command cmd =>
    match decode cmd.packet with
    | .command i => i.wf cmd.timeIn
    | .unknownKind _ _ => cmd.packet.arg0 != 0 || cmd.timeIn != 0
    | .illegal _ => true

/-- The host keeps its duty with every event still to come. -/
abbrev State.dutyKept (s : State) : Prop := ∀ e ∈ s.events, dutyKeptBy e = true

/-! ### Words that are no command (R75, R78) -/

/-- The illegal words of R78: an unassigned opcode, `rsv != 0`, or `kind != 0` outside `INIT`. -/
abbrev illegalWord (w : U32) : Prop :=
  (w.toNat / 2 ^ 24 ∉ [0x01, 0x02, 0x03, 0x10, 0x11, 0x12, 0x13, 0x20, 0x30]) ∨ w.toNat % 2 ^ 16 ≠ 0 ∨
    (w.toNat / 2 ^ 24 ≠ 0x01 ∧ w.toNat / 2 ^ 16 % 16 ≠ 0)

/-- `INIT` with an unrecognised kind (R75 case b): opcode `0x01`, `rsv = 0`, kind 4 to 15. -/
abbrev unknownKindWord (w : U32) : Prop :=
  w.toNat / 2 ^ 24 = 0x01 ∧ w.toNat % 2 ^ 16 = 0 ∧ 4 ≤ w.toNat / 2 ^ 16 % 16

/-! ### Contexts and commands -/

/-- The kind of a live context, none of an empty one (R25, R30). -/
def Context.kind : Context params → Option Kind
  | .empty => none
  | .live g => some g.kind

/-- The kind an `INIT` gives (R105 to R108), none for the other commands. -/
def initKind : Instr → Option Kind
  | .initRs _ _ => some .rotateShift
  | .initLcg _ _ => some .lcgPermutation
  | .initCs _ _ => some .cipherStream
  | .initMt _ _ => some .classicTwister
  | .destroy _ => none
  | .reseed _ _ => none
  | .next32 _ => none
  | .next64 _ => none
  | .nextD _ => none
  | .nextS _ => none
  | .fill _ _ _ => none
  | .jump _ => none

/-- The `INIT` of a kind (R104). -/
def initOf (k : Kind) (c : CtxIndex) (seed : U64) : Instr :=
  match k with
  | .rotateShift => .initRs c seed
  | .lcgPermutation => .initLcg c seed
  | .cipherStream => .initCs c seed
  | .classicTwister => .initMt c seed

/-- The same command on another context (R118: "two contexts (of one block or of two)"). -/
def onContext (d : CtxIndex) : Instr → Instr
  | .initRs _ seed => .initRs d seed
  | .initLcg _ seed => .initLcg d seed
  | .initCs _ seed => .initCs d seed
  | .initMt _ seed => .initMt d seed
  | .destroy _ => .destroy d
  | .reseed _ seed => .reseed d seed
  | .next32 _ => .next32 d
  | .next64 _ => .next64 d
  | .nextD _ => .nextD d
  | .nextS _ => .nextS d
  | .fill _ addr len => .fill d addr len
  | .jump _ => .jump d

/-- The statuses R242 allows each command. -/
def possibleStatuses : Instr → List Status
  | .initRs _ _ => [.ok, .eAlloc]
  | .initLcg _ _ => [.ok, .eAlloc]
  | .initCs _ _ => [.ok, .eAlloc]
  | .initMt _ _ => [.ok, .eAlloc]
  | .destroy _ => [.ok, .eNoGen]
  | .reseed _ _ => [.ok, .eNoGen]
  | .next32 _ => [.ok, .eNoGen]
  | .next64 _ => [.ok, .eNoGen]
  | .nextD _ => [.ok, .eNoGen]
  | .nextS _ => [.ok, .eNoGen]
  | .fill _ _ _ => [.ok, .eNoGen, .eNoBuf, .eZLen, .eRange]
  | .jump _ => [.ok, .eNoGen, .eUnsup]

/-- A command reads `time_in`: an `INIT` or `RESEED` whose `ARG0` is 0 (R102, R252). -/
def readsTimeIn : Instr → Bool
  | .initRs _ seed => seed == 0
  | .initLcg _ seed => seed == 0
  | .initCs _ seed => seed == 0
  | .initMt _ seed => seed == 0
  | .reseed _ seed => seed == 0
  | .destroy _ => false
  | .next32 _ => false
  | .next64 _ => false
  | .nextD _ => false
  | .nextS _ => false
  | .fill _ _ _ => false
  | .jump _ => false

/-- A command may write memory: only `FILL` (R50). -/
def writesMemory : Instr → Bool
  | .fill _ _ _ => true
  | .initRs _ _ => false
  | .initLcg _ _ => false
  | .initCs _ _ => false
  | .initMt _ _ => false
  | .destroy _ => false
  | .reseed _ _ => false
  | .next32 _ => false
  | .next64 _ => false
  | .nextD _ => false
  | .nextS _ => false
  | .jump _ => false

/-! ### Runs (R283) -/

/-- `n` steps from `s` all answer a next state: nothing stops the block. -/
abbrev runsOn (n : Nat) (s : State) : Prop := ∃ t, Host.Core.run Sys2Proof.core n s = .next t

/-- The responses of commands executed one after another with one level on `time_in`, each with the context it named,
up to the first command the model refuses. -/
def answers : List Instr → State → List (CtxIndex × Option Response)
  | [], _ => []
  | i :: rest, s =>
    match exec i s with
    | .next t => (i.ctx, t.rsp) :: answers rest t
    | .fault _ => []
    | .refused _ => []

/-- The Generator after `n` calls of `Draw64` (R103, R116). -/
def afterDraws64 (g : Generator params) (n : Nat) : Generator params := (fun h => (draw64 params h).2)^[n] g

/-- The value of the `n`-th further call of `Draw64`, counted from 0. -/
def nthDraw64 (g : Generator params) (n : Nat) : U64 := (draw64 params (afterDraws64 g n)).1

end Sys2Proof.Machine
end

