-- ==== Sys2Proof/Certificates/Slice0/Obligations.lean ====
section
/-! DEFINITION. The statements for the provers, in the order of OBLIGATIONS.json: encoding, the step and reset, the
lifecycle commands, the draws, `FILL`, `JUMP`, the cores, and the rules about the whole machine. -/

open Sys2Proof Sys2Proof.Machine

/-! ### Encoding (30_encoding.md) -/

/-- Decoding the encoding of a command gives it back, for every command and every operand (R70 to R75, R80). -/
def Obligations.DecodeEncodeRoundTrip : Prop := ∀ i : Instr, decode (encode i) = .command i

/-- The encoding of a decoded command has the packet's own word, and the seed, address and length of the command are the
packet's arguments: no field is scaled, shifted or extended (R71, R72). -/
def Obligations.EncodeOfDecodedWord : Prop :=
  ∀ (p : Packet) (i : Instr), decode p = .command i →
    (encode i).word = p.word ∧ (∀ k c a, i = initOf k c a → a = p.arg0) ∧ (∀ c a, i = .reseed c a → a = p.arg0) ∧
      (∀ c a l, i = .fill c a l → a = p.arg0 ∧ l = p.arg1)

/-- R74: a word decodes to a command of a table row exactly when `W & mask = match`, and then on context `W[23:20]`. -/
def Obligations.DecodesExactlyByMaskAndMatch : Prop :=
  ∀ (p : Packet) (i : Instr),
    ((∃ j, decode p = .command j ∧ j.row = i.row) ↔ p.word &&& i.row.mask = i.row.pattern) ∧
      (decode p = .command i → i.ctx.toNat = p.word.toNat / 2 ^ 20 % 16)

/-- R78: the illegal words are exactly those with an unassigned opcode, `rsv != 0`, or `kind != 0` outside `INIT`; such
a word is answered with status 8 and result 0, no context and no memory changes, and `time_in` is not used. -/
def Obligations.IllegalWordAnswersEIllCmd : Prop :=
  ∀ (s : State) (cmd : Command) (rest : List HostEvent), s.events = .command cmd :: rest →
    ((∃ why, decode cmd.packet = .illegal why) ↔ illegalWord cmd.packet.word) ∧
      (illegalWord cmd.packet.word →
        step s = .next { s with events := rest, timeIn := cmd.timeIn, rsp := some ⟨.eIllCmd, 0⟩, writes := [] }) ∧
      Status.code .eIllCmd = 8

/-- R75 case (b), R104 check 1, R243: `INIT` with kind 4 to 15 is recognised as such exactly on its words, and, while the
host keeps its duty of R252, answers `E_KIND` with nothing changed, whatever the named context is or holds. That such a
word is refused when the duty is broken is `ZeroSeedAndZeroTimeIsRefused`. -/
def Obligations.UnknownKindAnswersEKind : Prop :=
  ∀ (s : State) (cmd : Command) (rest : List HostEvent), s.events = .command cmd :: rest →
    ((∃ c k, decode cmd.packet = .unknownKind c k) ↔ unknownKindWord cmd.packet.word) ∧
      (unknownKindWord cmd.packet.word → (cmd.packet.arg0 ≠ 0 ∨ cmd.timeIn ≠ 0) →
        step s = .next { s with events := rest, timeIn := cmd.timeIn, rsp := some ⟨.eKind, 0⟩, writes := [] })

/-- The worked encodings of R80 and words of each group of R74, written out by hand, decode to their commands. -/
def Obligations.WorkedEncodingsDecode : Prop :=
  decode ⟨0x01210000, 7, 0⟩ = .command (.initLcg 2 7) ∧
    decode ⟨0x20100000, 0x1000, 13⟩ = .command (.fill 1 0x1000 13) ∧
    decode ⟨0x01F30000, 1, 0⟩ = .command (.initMt 15 1) ∧
    decode ⟨0x03000000, 0x2A, 99⟩ = .command (.reseed 0 0x2A) ∧
    decode ⟨0x10200000, 5, 6⟩ = .command (.next32 2) ∧
    decode ⟨0x30100000, 5, 6⟩ = .command (.jump 1)

/-! ### The step and reset -/

/-- One step is one whole command (R20, R100): when the next host event presents a packet that decodes to `i`, the
step is `exec i`, in the state where that event is taken, `time_in` is the command's sample, and the response and write
ports show nothing of an earlier command. That events and ports stand in State is the model's choice (log 1, log 7). -/
def Obligations.StepRunsDecodedCommand : Prop :=
  ∀ (s : State) (cmd : Command) (rest : List HostEvent) (i : Instr),
    s.events = .command cmd :: rest → decode cmd.packet = .command i →
      step s = exec i { s with events := rest, timeIn := cmd.timeIn, rsp := none, writes := [] }

/-- R270: the reset event empties every context, leaves no response pending and writes no memory byte. That the host's
later events and its `time_in` level stay is the model's reading (log 6, log 11). -/
def Obligations.ResetEventEmptiesContexts : Prop :=
  ∀ (s : State) (rest : List HostEvent), s.events = .reset :: rest →
    ∃ t, step s = .next t ∧ (∀ c, t.context c = .empty) ∧ t.rsp = none ∧ t.mem = s.mem ∧ t.writes = [] ∧
      t.events = rest ∧ t.timeIn = s.timeIn

/-- With no host event left a step changes nothing: the model's reading of R246 and R254 (log 6). -/
def Obligations.IdleStepChangesNothing : Prop := ∀ s : State, s.events = [] → step s = .next s

/-- R35, R271: after reset every context is empty, no response is pending and no byte is written, and every command
other than `INIT` answers `E_NOGEN`, whatever the level on `time_in` (a `RESEED` with the duty of R252 kept). -/
def Obligations.AfterResetNothingIsSeeded : Prop :=
  (∀ c, State.reset.context c = .empty) ∧ State.reset.rsp = none ∧ State.reset.writes = [] ∧
    (∀ i time, initKind i = none → i.wf time = true →
      exec i { State.reset with timeIn := time } =
        .next { State.reset with timeIn := time, rsp := some ⟨.eNoGen, 0⟩ })

/-! ### Lifecycle commands (R104 to R109, R115) -/

/-- R105 with R102, R141, R142: `INIT.RS` on an empty context that exists. The four words are the mixer of R141 on the
effective seed plus one to four times its increment; nothing else of the state changes but the response. -/
def Obligations.InitRsSeedsRotateShift : Prop :=
  ∀ (c : CtxIndex) (seed : U64) (s : State) (h : c.toNat < params.nctx),
    s.context c = .empty → (seed ≠ 0 ∨ s.timeIn ≠ 0) →
      let e := if seed = 0 then s.timeIn else seed
      let mix := fun (x : U64) =>
        let a := (x ^^^ (x >>> 30)) * 0xBF58476D1CE4E5B9
        let b := (a ^^^ (a >>> 27)) * 0x94D049BB133111EB
        b ^^^ (b >>> 31)
      let word := fun (i : U64) => mix (e + i * 0x9E3779B97F4A7C15)
      exec (.initRs c seed) s = .next { s with
        ctx := s.ctx.set c.toNat (.live (.rs ⟨word 1, word 2, word 3, word 4⟩)) h
        rsp := some ⟨.ok, 0⟩ }

/-- R106 with R102, R161, R162: `INIT.LCG` on an empty context that exists. -/
def Obligations.InitLcgSeedsLcg : Prop :=
  ∀ (c : CtxIndex) (seed : U64) (s : State) (h : c.toNat < params.nctx),
    s.context c = .empty → (seed ≠ 0 ∨ s.timeIn ≠ 0) →
      let e := if seed = 0 then s.timeIn else seed
      let inc : U64 := 2 * e + 1
      exec (.initLcg c seed) s = .next { s with
        ctx := s.ctx.set c.toNat (.live (.lcg ⟨(inc + e) * 6364136223846793005 + inc, inc⟩)) h
        rsp := some ⟨.ok, 0⟩ }

/-- R107 with R102, R201, R202: `INIT.CS` on an empty context that exists: even words the low half of the effective
seed, odd words the high half, position 0. -/
def Obligations.InitCsSeedsCipherStream : Prop :=
  ∀ (c : CtxIndex) (seed : U64) (s : State) (h : c.toNat < params.nctx),
    s.context c = .empty → (seed ≠ 0 ∨ s.timeIn ≠ 0) →
      let e := if seed = 0 then s.timeIn else seed
      ∃ w : Vector U32 16,
        exec (.initCs c seed) s = .next { s with
          ctx := s.ctx.set c.toNat (.live (.cs ⟨w, 0⟩)) h
          rsp := some ⟨.ok, 0⟩ } ∧
        ∀ (i : Nat) (hi : i < 16), w[i].toNat = if i % 2 = 0 then e.toNat % 2 ^ 32 else e.toNat / 2 ^ 32

/-- R108 with R102, R181: `INIT.MT` on an empty context that exists: `mt[0]` is the low half of the effective seed, each
later word follows by the seeding recurrence, and the index says "needs regeneration". -/
def Obligations.InitMtSeedsTwister : Prop :=
  ∀ (c : CtxIndex) (seed : U64) (s : State) (h : c.toNat < params.nctx),
    s.context c = .empty → (seed ≠ 0 ∨ s.timeIn ≠ 0) →
      let e := if seed = 0 then s.timeIn else seed
      ∃ mt : Vector U32 624,
        exec (.initMt c seed) s = .next { s with
          ctx := s.ctx.set c.toNat (.live (.mt ⟨mt, 624⟩)) h
          rsp := some ⟨.ok, 0⟩ } ∧
        mt[0].toNat = e.toNat % 2 ^ 32 ∧
        ∀ (i : Nat) (hi : i + 1 < 624),
          mt[i + 1] = 1812433253 * (mt[i] ^^^ (mt[i] >>> 30)) + BitVec.ofNat 32 (i + 1)

/-- R104 checks 2 and 3: an `INIT` of a recognised kind on a context that does not exist or is occupied answers
`E_ALLOC` and changes nothing else, with any seed and `time_in` that keep the duty of R252. -/
def Obligations.InitOnTakenOrMissingSlotFails : Prop :=
  ∀ (k : Kind) (c : CtxIndex) (seed : U64) (s : State), (seed ≠ 0 ∨ s.timeIn ≠ 0) →
    (params.nctx ≤ c.toNat ∨ ∃ g, s.context c = .live g) →
      exec (initOf k c seed) s = .next { s with rsp := some ⟨.eAlloc, 0⟩ }

/-- R252, U2 ("a model refuses such a step"): a seed of 0 with a `time_in` of 0 is refused, for `INIT` of each kind and
for `RESEED`, whatever the command's checks would find. That an `INIT` of an unrecognised kind is refused too, where R75
says it "always fails with `E_KIND`", is the model's reading (log 3). -/
def Obligations.ZeroSeedAndZeroTimeIsRefused : Prop :=
  (∀ (c : CtxIndex) (s : State), s.timeIn = 0 →
      (∀ k, exec (initOf k c 0) s = .refused .zeroSeedAndZeroTime) ∧
        exec (.reseed c 0) s = .refused .zeroSeedAndZeroTime) ∧
    ∀ (s : State) (cmd : Command) (rest : List HostEvent), s.events = .command cmd :: rest →
      unknownKindWord cmd.packet.word → cmd.packet.arg0 = 0 → cmd.timeIn = 0 →
        step s = .refused .zeroSeedAndZeroTime

/-- R109: `DESTROY` of a live context empties it, answers `OK`, and changes nothing else. -/
def Obligations.DestroyEmptiesContext : Prop :=
  ∀ (c : CtxIndex) (g : Generator params) (s : State) (h : c.toNat < params.nctx), s.context c = .live g →
    exec (.destroy c) s = .next { s with ctx := s.ctx.set c.toNat .empty h, rsp := some ⟨.ok, 0⟩ }

/-- R115: `RESEED` of a live context answers `OK`; the context holds the Generator that an `INIT` of its kind with the
same seed gives an empty context, and nothing else changes. -/
def Obligations.ReseedKeepsKindAndRestarts : Prop :=
  ∀ (c : CtxIndex) (seed : U64) (g : Generator params) (s : State) (h : c.toNat < params.nctx),
    s.context c = .live g → (seed ≠ 0 ∨ s.timeIn ≠ 0) →
      ∃ g' : Generator params, g'.kind = g.kind ∧
        exec (.reseed c seed) s =
          .next { s with ctx := s.ctx.set c.toNat (.live g') h, rsp := some ⟨.ok, 0⟩ } ∧
        exec (initOf g.kind c seed) { s with ctx := s.ctx.set c.toNat .empty h } =
          .next { s with ctx := s.ctx.set c.toNat (.live g') h, rsp := some ⟨.ok, 0⟩ }

/-- R115, T2: `RESEED` is bit for bit `DESTROY` followed by `INIT` of the same kind with the same `ARG0`. -/
def Obligations.ReseedEqualsDestroyThenInit : Prop :=
  ∀ (c : CtxIndex) (seed : U64) (g : Generator params) (s t : State), s.context c = .live g →
    exec (.destroy c) s = .next t → exec (initOf g.kind c seed) t = exec (.reseed c seed) s

/-- R101: every command but `INIT` on a context that is empty or does not exist answers `E_NOGEN` and changes nothing
else, with any operands that keep the duty of R252 (which concerns `RESEED` alone of these). -/
def Obligations.NullGeneratorAnswersENoGen : Prop :=
  ∀ (i : Instr) (s : State), initKind i = none → i.wf s.timeIn = true →
    (params.nctx ≤ i.ctx.toNat ∨ s.context i.ctx = .empty) →
      exec i s = .next { s with rsp := some ⟨.eNoGen, 0⟩ }

/-! ### Draws (R103, R110 to R114) -/

/-- R103, R110, R111, R112, R114, R143: the four draws on a rotate-shift context, with the output and the next state in
the closed form of R143; nothing else of the state changes but the response. -/
def Obligations.RotateShiftDraws : Prop :=
  ∀ (c : CtxIndex) (s : State) (st : RsState) (h : c.toNat < params.nctx), s.context c = .live (.rs st) →
    let v := (st.s0 + st.s3).rotateLeft 23 + st.s0
    let st' : RsState :=
      ⟨st.s0 ^^^ st.s1 ^^^ st.s3, st.s0 ^^^ st.s1 ^^^ st.s2, st.s0 ^^^ st.s2 ^^^ (st.s1 <<< 17),
        (st.s1 ^^^ st.s3).rotateLeft 45⟩
    let after := fun (r : U64) =>
      ({ s with ctx := s.ctx.set c.toNat (.live (.rs st')) h, rsp := some ⟨.ok, r⟩ } : State)
    exec (.next32 c) s = .next (after (BitVec.ofNat 64 (v.toNat % 2 ^ 32))) ∧
      exec (.next64 c) s = .next (after v) ∧
      exec (.nextD c) s = .next (after (binary64 (v.toNat / 2 ^ 11))) ∧
      exec (.nextS c) s = .next (after (binary64 (v.toNat / 2 ^ 11)))

/-- R103, R110, R111, R112, R114, R163: the four draws on an LCG-permutation context; a 64-bit draw is two native draws,
the first in the high half. -/
def Obligations.LcgDraws : Prop :=
  ∀ (c : CtxIndex) (s : State) (st : LcgState) (h : c.toNat < params.nctx), s.context c = .live (.lcg st) →
    let out := fun (old : U64) =>
      ((((old >>> 18) ^^^ old) >>> 27).setWidth 32 : U32).rotateRight (old.toNat / 2 ^ 61)
    let next := fun (old : U64) => old * 6364136223846793005 + st.inc
    let v := out st.state ++ out (next st.state)
    let after := fun (state r : U64) =>
      ({ s with ctx := s.ctx.set c.toNat (.live (.lcg ⟨state, st.inc⟩)) h, rsp := some ⟨.ok, r⟩ } : State)
    exec (.next32 c) s = .next (after (next st.state) (0#32 ++ out st.state)) ∧
      exec (.next64 c) s = .next (after (next (next st.state)) v) ∧
      exec (.nextD c) s = .next (after (next (next st.state)) (binary64 (v.toNat / 2 ^ 11))) ∧
      exec (.nextS c) s = .next (after (next (next st.state)) (binary64 (v.toNat / 2 ^ 11)))

/-- R103, R110, R111, R112, R114, R203: the four draws on a cipher-stream context: the word at the position, which
starts over at 0 when it is used up; the words never change. -/
def Obligations.CipherStreamDraws : Prop :=
  ∀ (c : CtxIndex) (s : State) (st : CsState params.csN) (h : c.toNat < params.nctx), s.context c = .live (.cs st) →
    let a := if st.pos.toNat < 16 then st.pos.toNat else 0
    let b := if a = 15 then 0 else a + 1
    let v := st.w.toList.getD a 0 ++ st.w.toList.getD b 0
    let after := fun (pos : Nat) (r : U64) =>
      ({ s with ctx := s.ctx.set c.toNat (.live (.cs ⟨st.w, BitVec.ofNat 5 pos⟩)) h, rsp := some ⟨.ok, r⟩ } : State)
    exec (.next32 c) s = .next (after (a + 1) (0#32 ++ st.w.toList.getD a 0)) ∧
      exec (.next64 c) s = .next (after (b + 1) v) ∧
      exec (.nextD c) s = .next (after (b + 1) (binary64 (v.toNat / 2 ^ 11))) ∧
      exec (.nextS c) s = .next (after (b + 1) (binary64 (v.toNat / 2 ^ 11)))

/-- R103, R110, R111, R112, R114, R183: the four draws on a twister context: regenerate when the index has reached 624,
temper the word at the index, advance the index. What `mtRegen` does is `TwisterRegenerationIsInPlace`. -/
def Obligations.TwisterDraws : Prop :=
  ∀ (c : CtxIndex) (s : State) (st : MtState params.mtN) (h : c.toNat < params.nctx), s.context c = .live (.mt st) →
    let temper := fun (y0 : U32) =>
      let y1 := y0 ^^^ (y0 >>> 11)
      let y2 := y1 ^^^ ((y1 <<< 7) &&& 0x9D2C5680)
      let y3 := y2 ^^^ ((y2 <<< 15) &&& 0xEFC60000)
      y3 ^^^ (y3 >>> 18)
    let ready := fun (m : MtState params.mtN) => if m.idx.toNat < 624 then m else mtRegen params m
    let out := fun (m : MtState params.mtN) => temper ((ready m).mt.toList.getD (ready m).idx.toNat 0)
    let next := fun (m : MtState params.mtN) => (⟨(ready m).mt, (ready m).idx + 1⟩ : MtState params.mtN)
    let v := out st ++ out (next st)
    let after := fun (m : MtState params.mtN) (r : U64) =>
      ({ s with ctx := s.ctx.set c.toNat (.live (.mt m)) h, rsp := some ⟨.ok, r⟩ } : State)
    exec (.next32 c) s = .next (after (next st) (0#32 ++ out st)) ∧
      exec (.next64 c) s = .next (after (next (next st)) v) ∧
      exec (.nextD c) s = .next (after (next (next st)) (binary64 (v.toNat / 2 ^ 11))) ∧
      exec (.nextS c) s = .next (after (next (next st)) (binary64 (v.toNat / 2 ^ 11)))

/-- R113: `Binary64(k)` is the binary64 pattern of exactly `k * 2^-53`: it is 0 at `k = 0`; otherwise the sign is 0, the
exponent field is between 970 and 1022, and significand times power of two is `k * 2^-53`, both sides scaled by
`2^1075`. -/
def Obligations.Binary64IsExact : Prop :=
  binary64 0 = 0 ∧
    ∀ k : Nat, 0 < k → k < 2 ^ 53 →
      let x := (binary64 k).toNat
      let sign := x / 2 ^ 63
      let exponent := x / 2 ^ 52 % 2 ^ 11
      let fraction := x % 2 ^ 52
      sign = 0 ∧ 970 ≤ exponent ∧ exponent ≤ 1022 ∧ (2 ^ 52 + fraction) * 2 ^ exponent = k * 2 ^ 1022

/-- R112, T3: a successful `NEXTD` or `NEXTS` answers a pattern at or below that of `1 - 2^-53`: sign 0, value in
`[0, 1)`. -/
def Obligations.DoublesAreBelowOne : Prop :=
  ∀ (c : CtxIndex) (s t : State) (r : Response),
    (exec (.nextD c) s = .next t ∨ exec (.nextS c) s = .next t) → t.rsp = some r →
      r.result.toNat ≤ 0x3FEFFFFFFFFFFFFF

/-- R114: `NEXTS` is `NEXTD` under another opcode. -/
def Obligations.NextSIsNextD : Prop := ∀ (c : CtxIndex) (s : State), exec (.nextS c) s = exec (.nextD c) s

/-! ### Bulk output (R116, 20_memory.md) -/

/-- R116, R52, R54: a `FILL` that passes its checks makes `ceil(len/8)` calls of `Draw64` and exactly `len` byte writes,
to `addr, addr+1, ...` ascending, byte `i` being byte `i mod 8` (least significant first) of draw `i / 8`; it answers
`OK`, and nothing else changes. -/
def Obligations.FillWritesTheDrawnBytes : Prop :=
  ∀ (c : CtxIndex) (addr len : U64) (g : Generator params) (s : State) (h : c.toNat < params.nctx),
    s.context c = .live g → addr ≠ 0 → len ≠ 0 → addr.toNat + len.toNat ≤ 2 ^ 64 →
      let ws := (List.range len.toNat).map fun i =>
        (addr.toNat + i, BitVec.ofNat 8 ((nthDraw64 g (i / 8)).toNat / 2 ^ (8 * (i % 8))))
      exec (.fill c addr len) s = .next { s with
        ctx := s.ctx.set c.toNat (.live (afterDraws64 g ((len.toNat + 7) / 8))) h
        mem := s.mem.writeCells ws
        writes := s.writes ++ ws
        rsp := some ⟨.ok, 0⟩ }

/-- R52, R54, R58: after a successful `FILL` each address of the buffer reads the byte drawn for it, and every address
outside `addr .. addr+len-1` reads as before. -/
def Obligations.FillMemoryReadsBack : Prop :=
  ∀ (c : CtxIndex) (addr len : U64) (g : Generator params) (s t : State),
    s.context c = .live g → addr ≠ 0 → len ≠ 0 → addr.toNat + len.toNat ≤ 2 ^ 64 →
      exec (.fill c addr len) s = .next t →
        (∀ i, i < len.toNat → t.mem.read (addr.toNat + i) =
          BitVec.ofNat 8 ((nthDraw64 g (i / 8)).toNat / 2 ^ (8 * (i % 8)))) ∧
        (∀ a, (a < addr.toNat ∨ addr.toNat + len.toNat ≤ a) → t.mem.read a = s.mem.read a)

/-- R55: address 0 is the null buffer and is never written, by any step: its byte stays. -/
def Obligations.NullAddressIsNeverWritten : Prop :=
  ∀ s t : State, step s = .next t → t.mem.read 0 = s.mem.read 0

/-- R50, U14: memory is a total map from addresses to bytes. Every assignment of a byte to each address below `2^AW` is
what exactly one memory in canonical form reads. The list is the model's own form; addresses from `2^AW` up do not exist,
and read there as an unlisted address does (log 5). -/
def Obligations.MemoryIsATotalMap : Prop :=
  ∀ f : Nat → U8, (∀ a, 2 ^ params.aw ≤ a → f a = Memory.unlisted) →
    ∃! m : Memory, m.wf ∧ m.inRange ∧ ∀ a, m.read a = f a

/-- R116, R56, R243: on a live context the checks of `FILL` are null buffer, then zero length, then range, and each
failure changes nothing but the response. -/
def Obligations.FillChecksItsBuffer : Prop :=
  ∀ (c : CtxIndex) (addr len : U64) (g : Generator params) (s : State), s.context c = .live g →
    (addr = 0 → exec (.fill c addr len) s = .next { s with rsp := some ⟨.eNoBuf, 0⟩ }) ∧
      (addr ≠ 0 → len = 0 → exec (.fill c addr len) s = .next { s with rsp := some ⟨.eZLen, 0⟩ }) ∧
      (addr ≠ 0 → len ≠ 0 → 2 ^ 64 < addr.toNat + len.toNat →
        exec (.fill c addr len) s = .next { s with rsp := some ⟨.eRange, 0⟩ })

/-- R275: splitting a `FILL` at a multiple of 8 changes neither the bytes written nor the draws consumed: the two
fills, one after the other, leave the very state the one fill leaves. The spec marks this as its own inference (R275,
"derived: from 40_facade_commands.md rule R116"). -/
def Obligations.FillSplitsAtMultiplesOfEight : Prop :=
  ∀ (c : CtxIndex) (addr n m : U64) (g : Generator params) (s t : State),
    s.context c = .live g → addr ≠ 0 → n ≠ 0 → m ≠ 0 → n.toNat % 8 = 0 →
      addr.toNat + n.toNat + m.toNat ≤ 2 ^ 64 → n.toNat + m.toNat < 2 ^ 64 →
        exec (.fill c addr n) s = .next t → exec (.fill c (addr + n) m) t = exec (.fill c addr (n + m)) s

/-! ### Stream control (R117, 45_jump_ahead.md) -/

/-- R117, R221: `JUMP` on a rotate-shift context answers `OK` and replaces the four words by the exclusive-or of the
states `n` steps ahead, over the bits `n` set in the 256-bit jump polynomial (word 0 first, least significant bit
first); nothing else changes. -/
def Obligations.JumpAppliesTheJumpPolynomial : Prop :=
  ∀ (c : CtxIndex) (s : State) (st : RsState) (h : c.toNat < params.nctx), s.context c = .live (.rs st) →
    let poly : BitVec 256 := 0x39ABDC4529B1661CA9582618E03FC9AAD5A61266F0C9392C180EC6D33CFD0ABA
    let stepOnce := fun (x : RsState) =>
      (⟨x.s0 ^^^ x.s1 ^^^ x.s3, x.s0 ^^^ x.s1 ^^^ x.s2, x.s0 ^^^ x.s2 ^^^ (x.s1 <<< 17),
        (x.s1 ^^^ x.s3).rotateLeft 45⟩ : RsState)
    let jumped := (List.range 256).foldl
      (fun acc n => if poly.getLsbD n then acc.xor (stepOnce^[n] st) else acc) ⟨0, 0, 0, 0⟩
    exec (.jump c) s =
      .next { s with ctx := s.ctx.set c.toNat (.live (.rs jumped)) h, rsp := some ⟨.ok, 0⟩ }

/-- R117: `JUMP` on a live context of another kind answers `E_UNSUP`; not even one draw is consumed. -/
def Obligations.JumpIsRotateShiftOnly : Prop :=
  ∀ (c : CtxIndex) (s : State) (g : Generator params), s.context c = .live g → g.kind ≠ .rotateShift →
    exec (.jump c) s = .next { s with rsp := some ⟨.eUnsup, 0⟩ }

/-- R144 (1): the state update of the step is linear over GF(2) and invertible, and only the zero state goes to zero.
The spec marks this as its own inference (R144, "derived: from rule R141 and rule R143"). -/
def Obligations.RotateShiftUpdateIsLinearBijection : Prop :=
  (∀ a b : RsState, rsUpdate params (a.xor b) = (rsUpdate params a).xor (rsUpdate params b)) ∧
    Function.Bijective (rsUpdate params) ∧ (∀ a : RsState, rsUpdate params a = .zero ↔ a = .zero)

/-- R221: the jump commutes with the step. -/
def Obligations.JumpCommutesWithStep : Prop :=
  ∀ st : RsState, rsJump params (rsUpdate params st) = rsUpdate params (rsJump params st)

/-- R222: the state `RsJump` leaves equals the state that 2^128 successive steps would leave. The spec marks this as
its own inference (R222, "derived: from rule R221 and 41_rotate_shift.md rule R143"). -/
def Obligations.JumpAdvances2Pow128Steps : Prop :=
  ∀ (n : Nat) (st : RsState), n = 2 ^ 128 → rsJump params st = (rsUpdate params)^[n] st

/-- R223: `RsJump` is invertible and maps non-zero states to non-zero states. The spec marks this as its own
inference (R223, "derived: from rule R222"). -/
def Obligations.JumpIsInvertible : Prop :=
  Function.Bijective (rsJump params) ∧ (∀ st : RsState, st ≠ .zero → rsJump params st ≠ .zero)

/-! ### The cores -/

/-- R141: the four outputs of `SeedMix` are pairwise distinct for every seed, so at most one of them is 0. The spec
marks this as its own inference (R141, "derived: from the pseudocode of this rule"). -/
def Obligations.SeedMixWordsAreDistinct : Prop :=
  ∀ (seed : U64) (i j : Nat) (hi : i < 4) (hj : j < 4),
    (seedMixDefault seed)[i] = (seedMixDefault seed)[j] → i = j

/-- R182: the regeneration works in place in ascending order: word `k` comes from the old words `k` and `k+1` and the
old word `k+397`, but from `k = 227` on from the word `k-227` rewritten in this pass, and at `k = 623` from the
rewritten word 0; the index becomes 0. -/
def Obligations.TwisterRegenerationIsInPlace : Prop :=
  ∀ st : MtState params.mtN,
    let new := (mtRegen params st).mt.toList
    let old := st.mt.toList
    let twist := fun (a b m : U32) =>
      let y := (a &&& 0x80000000) ||| (b &&& 0x7FFFFFFF)
      if y.toNat % 2 = 1 then m ^^^ (y >>> 1) ^^^ 0x9908B0DF else m ^^^ (y >>> 1)
    (mtRegen params st).idx = 0 ∧
      ∀ k, k < 624 → new.getD k 0 =
        twist (old.getD k 0) (if k = 623 then new.getD 0 0 else old.getD (k + 1) 0)
          (if k < 227 then old.getD (k + 397) 0 else new.getD (k - 227) 0)

/-- R184 (1): after `n >= 1` draws since seeding, `idx = ((n - 1) mod 624) + 1`. The spec marks this as its own
inference (R184, "derived: from rules R181 to R183"). -/
def Obligations.TwisterIndexCountsDraws : Prop :=
  ∀ (seed : U64) (n : Nat), 1 ≤ n →
    ((fun m => (mtDraw params m).2)^[n] (mtSeed params seed)).idx.toNat = (n - 1) % 624 + 1

/-- R203: the `n`-th draw after seeding (`n >= 1`) returns `w[(n-1) mod 16]`, after it `pos = ((n-1) mod 16) + 1`, and no
draw changes `w`. -/
def Obligations.CipherStreamCyclesItsWords : Prop :=
  ∀ (seed : U64) (n : Nat), 1 ≤ n →
    let fresh := csSeed params seed
    let before := (fun m => (csDraw params m).2)^[n - 1] fresh
    (csDraw params before).1 = fresh.w.toList.getD ((n - 1) % 16) 0 ∧
      (csDraw params before).2.pos.toNat = (n - 1) % 16 + 1 ∧ (csDraw params before).2.w = fresh.w

/-- R164 (2), (3): through any number of draws the increment is constant and the state follows the recurrence,
whatever the outputs are. The spec marks this as its own inference (R164, "derived: from rule R162 and rule R163"). -/
def Obligations.LcgStateFollowsItsRecurrence : Prop :=
  ∀ (st : LcgState) (n : Nat),
    (fun m => (lcgDraw params m).2)^[n] st = ⟨(fun x => x * 6364136223846793005 + st.inc)^[n] st.state, st.inc⟩

/-! ### Rules about the whole machine -/

/-- R31 items 2 to 4, R55: every step keeps the invariant, the reset event and the words that are no command
included. The spec marks these items as its own inferences ("derived"), from R162, R181, R183, R202 and R203; the
canonical form of memory is the model's own (log 5), and that the port's writes stand in State too (log 7). -/
def Obligations.StepKeepsInvariant : Prop := ∀ s t : State, s.inv → step s = .next t → t.inv

/-- The state after reset has the invariant (R31: "They hold after reset"). -/
def Obligations.ResetHasInvariant : Prop := State.reset.inv

/-- R31 item 5: no step makes a rotate-shift context all zero; `JUMP` and seeding included. The spec marks this as
its own inference ("derived: from 41_rotate_shift.md rules R141, R144 and 45_jump_ahead.md rule R223"). -/
def Obligations.StepKeepsRotateShiftNonzero : Prop := ∀ s t : State, s.rsNonzero → step s = .next t → t.rsNonzero

/-- No rotate-shift context is all zero after reset (R31 item 5). -/
def Obligations.ResetHasNoZeroRotateShift : Prop := State.reset.rsNonzero

/-- R120: whenever a command responds with a status other than `OK`, every context and every byte of memory is what it
was, nothing was written, and the result is 0; indeed the response is all that changes. First for a command presented by
the host, the words that decode to no command included; then for a decoded command in any state. -/
def Obligations.FailedCommandChangesNothing : Prop :=
  (∀ (s t : State) (cmd : Command) (rest : List HostEvent) (r : Response), s.events = .command cmd :: rest →
      step s = .next t → t.rsp = some r → r.status ≠ .ok →
        t = { s with events := rest, timeIn := cmd.timeIn, rsp := some r, writes := [] } ∧ r.result = 0) ∧
    ∀ (i : Instr) (s t : State) (r : Response), exec i s = .next t → t.rsp = some r → r.status ≠ .ok →
      t = { s with rsp := some r } ∧ r.result = 0

/-- R34: a command reads and writes the context it names only: every other context is unchanged. The host's events and
the `time_in` level, fields of the model's own (log 1), are unchanged too. -/
def Obligations.OtherContextsUnchanged : Prop :=
  ∀ (i : Instr) (s t : State) (d : CtxIndex), exec i s = .next t →
    (d ≠ i.ctx → t.context d = s.context d) ∧ t.events = s.events ∧ t.timeIn = s.timeIn

/-- R50: only `FILL` reaches the buffer space: every other command leaves every byte as it was and writes none. -/
def Obligations.OnlyFillTouchesMemory : Prop :=
  ∀ (i : Instr) (s t : State), writesMemory i = false → exec i s = .next t →
    (∀ a, t.mem.read a = s.mem.read a) ∧ t.writes = s.writes

/-- R242: the statuses each command can answer. The spec marks this as its own inference (R242, "derived" from R101,
R104, R116, R117 and R78). -/
def Obligations.StatusesArePossible : Prop :=
  ∀ (i : Instr) (s t : State), exec i s = .next t →
    ∃ r, t.rsp = some r ∧ r.status ∈ possibleStatuses i

/-- R273: the life cycle of a context. An empty context becomes live only by an `INIT`, with that kind (where it
exists); a live context is emptied by `DESTROY` and keeps its kind under every other command. The spec marks this as
its own inference (R273, "derived" from R101, R104, R109, R115). -/
def Obligations.LifeCycleOfAContext : Prop :=
  ∀ (i : Instr) (s t : State), exec i s = .next t →
    (s.context i.ctx = .empty →
      (t.context i.ctx).kind = if i.ctx.toNat < params.nctx then initKind i else none) ∧
    (∀ g, s.context i.ctx = .live g →
      (t.context i.ctx).kind = if i = .destroy i.ctx then none else some g.kind)

/-- R102, R118: `time_in` has no effect on a command unless it is an `INIT` or `RESEED` with `ARG0 = 0`. R118 is
marked by the spec as its own inference ("derived: from rules R100 to R117"). -/
def Obligations.TimeInMattersOnlyForSeedZero : Prop :=
  ∀ (i : Instr) (s t : State) (time : U64), readsTimeIn i = false → exec i s = .next t →
    exec i { s with timeIn := time } = .next { t with timeIn := time }

/-- R118, T1: two contexts, of one block or of two, that hold the same Generator answer the same sequence of commands
alike, for any number of commands; seeds of 0 take the same `time_in`. The spec marks this as its own inference
(R118, "derived: from rules R100 to R117"). -/
def Obligations.SameGeneratorSameAnswers : Prop :=
  ∀ (c d : CtxIndex) (s₁ s₂ : State) (is : List Instr),
    c.toNat < params.nctx → d.toNat < params.nctx → s₁.context c = s₂.context d → s₁.timeIn = s₂.timeIn →
      (∀ i ∈ is, i.ctx = c) →
        (answers is s₁).map Prod.snd = (answers (is.map (onContext d)) s₂).map Prod.snd

/-- R253, R34: any interleaving of per-context command sequences gives each context the same responses as if its own
commands ran alone. The spec marks this as its own inference (R253, "derived: from 10_state.md rules R23, R34"). -/
def Obligations.InterleavingIsInvisible : Prop :=
  ∀ (c : CtxIndex) (s : State) (is : List Instr), (∀ i ∈ is, i.wf s.timeIn = true) →
    (answers is s).filter (fun x => x.1 = c) = answers (is.filter (fun i => i.ctx = c)) s

/-- R100: a command presented while the host keeps its duty is answered, with exactly one response, by one step, and the
duty is kept for the events that remain. -/
def Obligations.EveryCommandIsAnswered : Prop :=
  ∀ (s : State) (cmd : Command) (rest : List HostEvent), s.dutyKept → s.events = .command cmd :: rest →
    ∃ t r, step s = .next t ∧ t.rsp = some r ∧ t.events = rest ∧ t.dutyKept

/-- R283: after any response, in any state, the block accepts the next command: while the host keeps its duty no number
of steps ends in a refusal or a fault. -/
def Obligations.NothingStopsTheBlock : Prop := ∀ (s : State) (n : Nat), s.dutyKept → runsOn n s
end

