-- ==== Sys2Proof/Laws/State.lean ====
section
/-! SUPPORT. One lemma per field per update of State: what each named update does to each field. -/

namespace Sys2Proof.Machine

variable (s : State) (c : CtxIndex) (x : Context params) (ws : List Host.Cell) (st : Status) (r : U64) (e : Status)
  (cmd : Command) (rest : List HostEvent) (n w : Nat)

/-! ### `State.respond` -/

@[simp] theorem State.respond_ctx : (s.respond st r).ctx = s.ctx := rfl
@[simp] theorem State.respond_mem : (s.respond st r).mem = s.mem := rfl
@[simp] theorem State.respond_events : (s.respond st r).events = s.events := rfl
@[simp] theorem State.respond_timeIn : (s.respond st r).timeIn = s.timeIn := rfl
@[simp] theorem State.respond_rsp : (s.respond st r).rsp = some ⟨st, r⟩ := rfl
@[simp] theorem State.respond_writes : (s.respond st r).writes = s.writes := rfl
@[simp] theorem State.respond_context : (s.respond st r).context c = s.context c := rfl

/-! ### `State.fail` -/

@[simp] theorem State.fail_ctx : (s.fail e).ctx = s.ctx := rfl
@[simp] theorem State.fail_mem : (s.fail e).mem = s.mem := rfl
@[simp] theorem State.fail_events : (s.fail e).events = s.events := rfl
@[simp] theorem State.fail_timeIn : (s.fail e).timeIn = s.timeIn := rfl
@[simp] theorem State.fail_rsp : (s.fail e).rsp = some ⟨e, 0⟩ := rfl
@[simp] theorem State.fail_writes : (s.fail e).writes = s.writes := rfl
@[simp] theorem State.fail_context : (s.fail e).context c = s.context c := rfl

/-! ### `State.writeCells` -/

@[simp] theorem State.writeCells_ctx : (s.writeCells ws).ctx = s.ctx := rfl
@[simp] theorem State.writeCells_mem : (s.writeCells ws).mem = s.mem.writeCells ws := rfl
@[simp] theorem State.writeCells_events : (s.writeCells ws).events = s.events := rfl
@[simp] theorem State.writeCells_timeIn : (s.writeCells ws).timeIn = s.timeIn := rfl
@[simp] theorem State.writeCells_rsp : (s.writeCells ws).rsp = s.rsp := rfl
@[simp] theorem State.writeCells_writes : (s.writeCells ws).writes = s.writes ++ ws := rfl
@[simp] theorem State.writeCells_context : (s.writeCells ws).context c = s.context c := rfl

@[simp] theorem State.writeCells_nil : s.writeCells [] = s := by
  simp [State.writeCells, Memory.writeCells]

/-! ### `State.resetEvent` -/

@[simp] theorem State.resetEvent_ctx : s.resetEvent.ctx = Vector.replicate params.nctx .empty := rfl
@[simp] theorem State.resetEvent_mem : s.resetEvent.mem = s.mem := rfl
@[simp] theorem State.resetEvent_events : s.resetEvent.events = s.events := rfl
@[simp] theorem State.resetEvent_timeIn : s.resetEvent.timeIn = s.timeIn := rfl
@[simp] theorem State.resetEvent_rsp : s.resetEvent.rsp = none := rfl
@[simp] theorem State.resetEvent_writes : s.resetEvent.writes = [] := rfl

@[simp] theorem State.resetEvent_context : s.resetEvent.context c = .empty := by
  simp [State.context, State.resetEvent]

/-! ### `State.accept` -/

@[simp] theorem State.accept_ctx : (s.accept cmd rest).ctx = s.ctx := rfl
@[simp] theorem State.accept_mem : (s.accept cmd rest).mem = s.mem := rfl
@[simp] theorem State.accept_events : (s.accept cmd rest).events = rest := rfl
@[simp] theorem State.accept_timeIn : (s.accept cmd rest).timeIn = cmd.timeIn := rfl
@[simp] theorem State.accept_rsp : (s.accept cmd rest).rsp = none := rfl
@[simp] theorem State.accept_writes : (s.accept cmd rest).writes = [] := rfl
@[simp] theorem State.accept_context : (s.accept cmd rest).context c = s.context c := rfl

/-! ### `State.present` -/

@[simp] theorem State.present_ctx : (s.present n w).ctx = s.ctx := rfl
@[simp] theorem State.present_mem : (s.present n w).mem = s.mem := rfl
@[simp] theorem State.present_events :
    (s.present n w).events = .command ⟨packetOfBits n w, s.timeIn⟩ :: s.events := rfl
@[simp] theorem State.present_timeIn : (s.present n w).timeIn = s.timeIn := rfl
@[simp] theorem State.present_rsp : (s.present n w).rsp = s.rsp := rfl
@[simp] theorem State.present_writes : (s.present n w).writes = s.writes := rfl

/-! ### `State.setContext` -/

theorem State.setContext_of_lt (h : c.toNat < params.nctx) :
    s.setContext c x = { s with ctx := s.ctx.set c.toNat x h } := by
  simp [State.setContext, h]

theorem State.setContext_of_ge (h : params.nctx ≤ c.toNat) : s.setContext c x = s := by
  simp [State.setContext, Nat.not_lt.mpr h]

@[simp] theorem State.setContext_mem : (s.setContext c x).mem = s.mem := by
  unfold State.setContext; split <;> rfl
@[simp] theorem State.setContext_events : (s.setContext c x).events = s.events := by
  unfold State.setContext; split <;> rfl
@[simp] theorem State.setContext_timeIn : (s.setContext c x).timeIn = s.timeIn := by
  unfold State.setContext; split <;> rfl
@[simp] theorem State.setContext_rsp : (s.setContext c x).rsp = s.rsp := by
  unfold State.setContext; split <;> rfl
@[simp] theorem State.setContext_writes : (s.setContext c x).writes = s.writes := by
  unfold State.setContext; split <;> rfl

/-- What is written to a context that exists is read back. -/
theorem State.context_setContext_self (h : c.toNat < params.nctx) : (s.setContext c x).context c = x := by
  simp [State.setContext, State.context, h]

/-- Writing one context leaves every other as it was (R34). -/
theorem State.context_setContext_of_ne {c d : CtxIndex} (h : d ≠ c) :
    (s.setContext c x).context d = s.context d := by
  unfold State.setContext
  split
  · have hne : c.toNat ≠ d.toNat := fun e => h (BitVec.eq_of_toNat_eq e.symm)
    simp [State.context, hne]
  · rfl

/-- A live context exists. -/
theorem State.lt_of_context_live {s : State} {c : CtxIndex} {g : Generator params} (h : s.context c = .live g) :
    c.toNat < params.nctx := by
  unfold State.context at h
  split at h
  · assumption
  · cases h

end Sys2Proof.Machine
end

