-- ==== Sys2Proof/Laws/Memory.lean ====
section
/-! SUPPORT. The buffer space: a read after writes, and the canonical form that every memory operation keeps. -/

namespace Sys2Proof.Machine

theorem Memory.read_insert (m : Memory) (a : Nat) (b : U8) (x : Nat) :
    (m.insert a b).read x = if x = a then b else m.read x := by
  induction m with
  | nil => simp [Memory.insert, Memory.read, eq_comm]
  | cons y rest ih =>
    by_cases h1 : a < y.1
    · simp [Memory.insert, h1, Memory.read, eq_comm]
    · by_cases h2 : a = y.1
      · subst h2
        by_cases hx : x = y.1 <;> simp [Memory.insert, Memory.read, hx, eq_comm]
      · simp only [Memory.insert, h1, h2, if_false, Memory.read, ih]
        by_cases hx : x = a
        · have : ¬ y.1 = x := fun e => h2 (hx ▸ e.symm)
          simp [hx, Ne.symm h2]
        · simp [hx]

theorem Memory.read_filter (m : Memory) (a x : Nat) :
    Memory.read (m.filter fun y => y.1 != a) x = if x = a then Memory.unlisted else m.read x := by
  induction m with
  | nil => simp [Memory.read]
  | cons y rest ih =>
    by_cases hy : y.1 = a
    · by_cases hx : x = a
      · simpa [List.filter_cons, hy, hx] using ih
      · simpa [List.filter_cons, hy, hx, Memory.read, Ne.symm hx] using ih
    · by_cases hx : y.1 = x
      · have : ¬ x = a := fun e => hy (hx.trans e)
        simp [Memory.read, hx, this]
      · simpa [hy, Memory.read, hx] using ih

/-- A byte written is read back; every other address reads as before (R54). -/
theorem Memory.read_write (m : Memory) (a : Nat) (b : U8) (x : Nat) :
    (m.write a b).read x = if x = a then b else m.read x := by
  unfold Memory.write
  split
  · rename_i h
    rw [Memory.read_filter, h]
  · exact Memory.read_insert m a b x

/-- Addresses no write names read as before. -/
theorem Memory.read_writeCells_of_not_mem (m : Memory) (ws : List Host.Cell) (x : Nat)
    (h : ∀ w ∈ ws, w.1 ≠ x) : (m.writeCells ws).read x = m.read x := by
  induction ws generalizing m with
  | nil => rfl
  | cons w rest ih =>
    rw [Memory.writeCells, ih _ fun v hv => h v (List.mem_cons_of_mem _ hv), Memory.read_write,
      if_neg (Ne.symm (h w List.mem_cons_self))]

/-- Writing one list of cells and then another is writing both. -/
theorem Memory.writeCells_append (m : Memory) (ws vs : List Host.Cell) :
    m.writeCells (ws ++ vs) = (m.writeCells ws).writeCells vs := by
  induction ws generalizing m with
  | nil => rfl
  | cons w rest ih => simp only [List.cons_append, Memory.writeCells, ih]

/-- The addresses listed after an insertion are the one inserted and those listed before. -/
theorem Memory.mem_insert {m : Memory} {a : Nat} {b : U8} {x : Host.Cell} (h : x ∈ m.insert a b) :
    x = (a, b) ∨ x ∈ m := by
  induction m with
  | nil => exact .inl (by simpa [Memory.insert] using h)
  | cons y rest ih =>
    simp only [Memory.insert] at h
    split at h
    · exact (List.mem_cons.mp h).imp id id
    · split at h
      · exact (List.mem_cons.mp h).imp id (List.mem_cons_of_mem _)
      · rcases List.mem_cons.mp h with h | h
        · exact .inr (h ▸ List.mem_cons_self)
        · exact (ih h).imp id (List.mem_cons_of_mem _)

/-- The addresses listed after a write are the one written and those listed before. -/
theorem Memory.mem_write {m : Memory} {a : Nat} {b : U8} {x : Host.Cell} (h : x ∈ m.write a b) :
    x = (a, b) ∨ x ∈ m := by
  unfold Memory.write at h
  split at h
  · exact .inr (List.mem_filter.mp h).1
  · exact Memory.mem_insert h

theorem Memory.rising_insert {m : Memory} (h : m.Pairwise (fun x y => x.1 < y.1)) (a : Nat) (b : U8) :
    (m.insert a b).Pairwise (fun x y => x.1 < y.1) := by
  induction m with
  | nil => simp [Memory.insert]
  | cons y rest ih =>
    have hy := List.pairwise_cons.mp h
    simp only [Memory.insert]
    split
    · rename_i hlt
      refine List.pairwise_cons.mpr ⟨fun z hz => ?_, h⟩
      rcases List.mem_cons.mp hz with rfl | hz
      · exact hlt
      · exact Nat.lt_trans hlt (hy.1 z hz)
    · split
      · rename_i heq
        exact List.pairwise_cons.mpr ⟨fun z hz => heq ▸ hy.1 z hz, hy.2⟩
      · refine List.pairwise_cons.mpr ⟨fun z hz => ?_, ih hy.2⟩
        rcases Memory.mem_insert hz with rfl | hz
        · show y.1 < a
          omega
        · exact hy.1 z hz

/-- One byte write keeps the canonical form. -/
theorem Memory.wf_write {m : Memory} (h : m.wf) (a : Nat) (b : U8) : (m.write a b).wf := by
  unfold Memory.write
  split
  · exact ⟨h.1.filter _, fun x hx => h.2 x (List.mem_filter.mp hx).1⟩
  · rename_i hb
    refine ⟨Memory.rising_insert h.1 a b, fun x hx => ?_⟩
    rcases Memory.mem_insert hx with rfl | hx
    · exact hb
    · exact h.2 x hx

/-- Any byte writes keep the canonical form. -/
theorem Memory.wf_writeCells {m : Memory} (h : m.wf) (ws : List Host.Cell) : (m.writeCells ws).wf := by
  induction ws generalizing m with
  | nil => exact h
  | cons w rest ih => exact ih (Memory.wf_write h _ _)

/-- Every listed byte after some writes was written by them or was listed before. -/
theorem Memory.mem_writeCells {m : Memory} {ws : List Host.Cell} {x : Host.Cell} (h : x ∈ m.writeCells ws) :
    x ∈ ws ∨ x ∈ m := by
  induction ws generalizing m with
  | nil => exact .inr h
  | cons w rest ih =>
    rcases ih h with h | h
    · exact .inl (List.mem_cons_of_mem _ h)
    · rcases Memory.mem_write h with rfl | h
      · exact .inl List.mem_cons_self
      · exact .inr h

/-- The memory of the state after reset has the canonical form. -/
theorem Memory.wf_reset : State.reset.mem.wf := by decide

/-- `MemWrite(addr, n, v)` makes exactly `n` byte writes (R52, R54). -/
@[simp] theorem memWriteCells_length (addr n : Nat) (v : U64) : (memWriteCells addr n v).length = n := by
  simp [memWriteCells]

/-- The byte writes of `MemWrite`: byte `b` of the value to address `addr + b` (R52). -/
theorem mem_memWriteCells {addr n : Nat} {v : U64} {x : Host.Cell} :
    x ∈ memWriteCells addr n v ↔ ∃ b, b < n ∧ x = (addr + b, byteOf v b) := by
  simp only [memWriteCells, List.mem_map, List.mem_range]
  exact ⟨fun ⟨b, hb, e⟩ => ⟨b, hb, e.symm⟩, fun ⟨b, hb, e⟩ => ⟨b, hb, e.symm⟩⟩

end Sys2Proof.Machine
end

