-- ==== Sys2Proof/Laws/Cores.lean ====
section
/-! SUPPORT. Small lemmas about the cores and the byte stream of a `FILL`: what each keeps and how much it makes. -/

namespace Sys2Proof.Machine

variable (p : Config.Params)

/-! ### The native draws -/

@[simp] theorem rsStep_fst (st : RsState) : (rsStep p st).1 = rsOutput p st := rfl
@[simp] theorem rsStep_snd (st : RsState) : (rsStep p st).2 = rsUpdate p st := rfl
@[simp] theorem lcgDraw_inc (st : LcgState) : (lcgDraw p st).2.inc = st.inc := rfl
@[simp] theorem lcgDraw_state (st : LcgState) : (lcgDraw p st).2.state = st.state * p.lcgMul + st.inc := rfl

@[simp] theorem csReady_w (st : CsState p.csN) : (csReady p st).w = st.w := by
  unfold csReady; split <;> rfl

/-- No draw changes the words (R203). -/
@[simp] theorem csDraw_w (st : CsState p.csN) : (csDraw p st).2.w = st.w := csReady_w p st

@[simp] theorem csDraw_pos (st : CsState p.csN) : (csDraw p st).2.pos = (csReady p st).pos + 1 := rfl

/-- A draw that does not regenerate leaves the array (R183). -/
theorem mtReady_of_lt {st : MtState p.mtN} (h : st.idx.toNat < p.mtN) : mtReady p st = st := by
  simp [mtReady, Nat.not_le.mpr h]

theorem mtReady_of_ge {st : MtState p.mtN} (h : p.mtN ≤ st.idx.toNat) : mtReady p st = mtRegen p st := by
  simp [mtReady, h]

@[simp] theorem mtDraw_mt (st : MtState p.mtN) : (mtDraw p st).2.mt = (mtReady p st).mt := rfl
@[simp] theorem mtDraw_idx (st : MtState p.mtN) : (mtDraw p st).2.idx = (mtReady p st).idx + 1 := rfl
@[simp] theorem mtRegen_idx (st : MtState p.mtN) : (mtRegen p st).idx = 0 := rfl
@[simp] theorem mtSeed_idx (seed : BitVec p.seedW) : (mtSeed p seed).idx = BitVec.ofNat 10 p.mtN := rfl

/-! ### Draws keep the kind (R30) -/

@[simp] theorem ofSeed_kind (k : Kind) (seed : BitVec p.seedW) : (Generator.ofSeed p k seed).kind = k := by
  cases k <;> rfl

@[simp] theorem draw32_kind (g : Generator p) : (draw32 p g).2.kind = g.kind := by
  cases g <;> rfl

@[simp] theorem drawPair_kind (g : Generator p) : (drawPair p g).2.kind = g.kind := by
  simp [drawPair]

@[simp] theorem draw64_kind (g : Generator p) : (draw64 p g).2.kind = g.kind := by
  cases g with
  | rs st => rfl
  | lcg st => exact drawPair_kind p _
  | cs st => exact drawPair_kind p _
  | mt st => exact drawPair_kind p _

/-! ### The byte stream of a `FILL` (R116) -/

theorem fillCells_succ (n rem addr : Nat) (g : Generator p) :
    fillCells p (n + 1) rem addr g =
      (memWriteCells addr 8 (draw64 p g).1 ++ (fillCells p n rem (addr + 8) (draw64 p g).2).1,
        (fillCells p n rem (addr + 8) (draw64 p g).2).2) := rfl

theorem fillCells_zero (rem addr : Nat) (g : Generator p) (h : rem ≠ 0) :
    fillCells p 0 rem addr g = (memWriteCells addr rem (draw64 p g).1, (draw64 p g).2) := by
  simp [fillCells, h]

@[simp] theorem fillCells_zero_zero (addr : Nat) (g : Generator p) : fillCells p 0 0 addr g = ([], g) := rfl

/-- One byte write per byte of length (R54). -/
theorem fillCells_length (full rem addr : Nat) (g : Generator p) :
    (fillCells p full rem addr g).1.length = 8 * full + rem := by
  induction full generalizing addr g with
  | zero => by_cases h : rem = 0 <;> simp [fillCells, h]
  | succ n ih => simp [fillCells_succ, ih]; omega

/-- Every byte write of a `FILL` lies in its buffer (R54). -/
theorem fillCells_addr {full rem addr : Nat} {g : Generator p} {x : Host.Cell}
    (h : x ∈ (fillCells p full rem addr g).1) : addr ≤ x.1 ∧ x.1 < addr + (8 * full + rem) := by
  induction full generalizing addr g with
  | zero =>
    by_cases hr : rem = 0
    · subst hr
      cases h
    · rw [fillCells_zero p rem addr g hr] at h
      obtain ⟨b, hb, rfl⟩ := mem_memWriteCells.mp h
      simp only
      omega
  | succ n ih =>
    rw [fillCells_succ] at h
    rcases List.mem_append.mp h with h | h
    · obtain ⟨b, hb, rfl⟩ := mem_memWriteCells.mp h
      simp only
      omega
    · have := ih h
      omega

theorem fillCells_kind (full rem addr : Nat) (g : Generator p) :
    (fillCells p full rem addr g).2.kind = g.kind := by
  induction full generalizing addr g with
  | zero => by_cases h : rem = 0 <;> simp [fillCells, h]
  | succ n ih => simp [fillCells_succ, ih]

end Sys2Proof.Machine
end

