-- ==== Sys2Proof/Laws/Exec.lean ====
section
/-! SUPPORT. What each shared operation can do when it answers a next state, and the one shape every command's next
state has. Later proofs cite these instead of unfolding the operations. -/

namespace Sys2Proof.Machine

/-! ### The checks (R101, R102, R104, R116) -/

theorem withGenerator_of_live {s : State} {c : CtxIndex} {g : Generator params} (h : s.context c = .live g)
    (f : Generator params → Result) : withGenerator c s f = f g := by
  simp [withGenerator, h]

theorem withGenerator_of_empty {s : State} {c : CtxIndex} (h : s.context c = .empty) (f : Generator params → Result) :
    withGenerator c s f = .next (s.fail .eNoGen) := by
  simp [withGenerator, h, failed]

/-- The null-generator check either fails with `E_NOGEN` or goes on with the Generator it finds. -/
theorem withGenerator_next {s t : State} {c : CtxIndex} {f : Generator params → Result}
    (h : withGenerator c s f = .next t) :
    (s.context c = .empty ∧ t = s.fail .eNoGen) ∨ ∃ g, s.context c = .live g ∧ f g = .next t := by
  unfold withGenerator at h
  split at h
  · rename_i he
    cases h
    exact .inl ⟨he, rfl⟩
  · rename_i g hg
    exact .inr ⟨g, hg, h⟩

/-- An `INIT` or `RESEED` that answers a next state was given a seed or a sample other than 0 (R252). -/
theorem withSeedDuty_next {s t : State} {seed : U64} {r : Result} (h : withSeedDuty seed s r = .next t) :
    ¬ dutyBroken seed s.timeIn ∧ r = .next t := by
  unfold withSeedDuty at h
  split at h
  · cases h
  · rename_i hne
    exact ⟨hne, h⟩

/-- A seed of this build is the argument as it stands (R72). -/
@[simp] theorem seedBits_params (e : U64) : seedBits params e = e := BitVec.setWidth_eq e

/-- The effective seed is 0 only when both the seed and `time_in` are (R102). -/
theorem seedEff_eq_zero {a t : U64} : seedEff a t = 0 ↔ dutyBroken a t := by
  unfold seedEff
  split
  · rename_i h
    exact ⟨fun e => absurd e h, fun e => e.1⟩
  · rename_i h
    exact ⟨fun e => ⟨not_not.mp h, e⟩, fun e => e.2⟩

/-- `INIT` of a recognised kind, with the duty kept, either fails with `E_ALLOC` or seeds an empty context that exists
(R104, R252). -/
theorem initContext_next {k : Kind} {c : CtxIndex} {seed : U64} {s t : State}
    (h : initContext k c seed s = .next t) :
    ¬ dutyBroken seed s.timeIn ∧
      (t = s.fail .eAlloc ∨
        (c.toNat < params.nctx ∧ s.context c = .empty ∧
          t = (s.setContext c (.live (seededGenerator k seed s))).respond .ok 0)) := by
  obtain ⟨hd, h⟩ := withSeedDuty_next h
  refine ⟨hd, ?_⟩
  split at h
  · cases h
    exact .inl rfl
  · rename_i hlt
    split at h
    · cases h
      exact .inl rfl
    · rename_i he
      cases h
      exact .inr ⟨Nat.lt_of_not_le hlt, he, rfl⟩

/-- `RESEED`, with the duty kept, either fails with `E_NOGEN` or seeds the context anew with its own kind (R115,
R252). -/
theorem execReseed_next {c : CtxIndex} {seed : U64} {s t : State} (h : execReseed c seed s = .next t) :
    ¬ dutyBroken seed s.timeIn ∧
      ((s.context c = .empty ∧ t = s.fail .eNoGen) ∨
        ∃ g, s.context c = .live g ∧ t = (s.setContext c (.live (seededGenerator g.kind seed s))).respond .ok 0) := by
  obtain ⟨hd, h⟩ := withSeedDuty_next h
  refine ⟨hd, (withGenerator_next h).imp id ?_⟩
  rintro ⟨g, hg, h⟩
  cases h
  exact ⟨g, hg, rfl⟩

/-- No check of `FILL` on its buffer fails exactly when the buffer is not null, not of zero length, and in range
(R116). -/
theorem fillCheck_eq_none {p : Config.Params} {addr len : U64} :
    fillCheck p addr len = none ↔
      addr ≠ 0 ∧ len ≠ 0 ∧ addr.toNat < 2 ^ p.aw ∧ addr.toNat + len.toNat ≤ 2 ^ p.aw := by
  unfold fillCheck
  split
  · simp_all
  · split
    · simp_all
    · split
      · simp_all; omega
      · simp_all

/-- A check of `FILL` that fails gives a status other than `OK`. -/
theorem fillCheck_ne_ok {p : Config.Params} {addr len : U64} {e : Status} (h : fillCheck p addr len = some e) :
    e ≠ .ok := by
  unfold fillCheck at h
  repeat' split at h
  all_goals first
    | (cases h; decide)
    | cases h

/-- What one host event asks of a step (R75, R100, R104, R252, R270). -/
theorem State.fetch_cases (s : State) :
    (s.events = [] ∧ s.fetch = .done s) ∨
      (∃ rest, s.events = .reset :: rest ∧ s.fetch = .done { s with events := rest }.resetEvent) ∨
      (∃ cmd rest, s.events = .command cmd :: rest ∧
        ((∃ i, decode cmd.packet = .command i ∧ s.fetch = .run i (s.accept cmd rest)) ∨
          (∃ c k, decode cmd.packet = .unknownKind c k ∧ dutyBroken cmd.packet.arg0 cmd.timeIn ∧
            s.fetch = .stop .zeroSeedAndZeroTime) ∨
          (∃ e, e ≠ .ok ∧ s.fetch = .done ((s.accept cmd rest).fail e)))) := by
  unfold State.fetch
  split
  · rename_i h
    exact .inl ⟨h, rfl⟩
  · rename_i rest h
    exact .inr (.inl ⟨rest, h, rfl⟩)
  · rename_i cmd rest h
    refine .inr (.inr ⟨cmd, rest, h, ?_⟩)
    split
    · rename_i i hi
      exact .inl ⟨i, hi, rfl⟩
    · rename_i c k hk
      split
      · rename_i hd
        exact .inr (.inl ⟨c, k, hk, hd, rfl⟩)
      · exact .inr (.inr ⟨.eKind, by decide, rfl⟩)
    · exact .inr (.inr ⟨.eIllCmd, by decide, rfl⟩)

/-! ### The shape of a next state -/

/-- A command's next state is either the state before it with a failure response, or the state before it with its own
context replaced, byte writes made (by `FILL` only), and an `OK` response. -/
abbrev nextShape (i : Instr) (s t : State) : Prop :=
  (∃ e, e ≠ .ok ∧ t = s.fail e) ∨
    ∃ x ws v, t = ((s.setContext i.ctx x).writeCells ws).respond .ok v ∧ (writesMemory i = false → ws = [])

theorem nextShape_of_initContext {i : Instr} {k : Kind} {seed : U64} {s t : State}
    (h : initContext k i.ctx seed s = .next t) : nextShape i s t := by
  rcases (initContext_next h).2 with rfl | ⟨_, _, rfl⟩
  · exact .inl ⟨_, by decide, rfl⟩
  · exact .inr ⟨_, [], 0, by rw [State.writeCells_nil], fun _ => rfl⟩

theorem nextShape_of_withGenerator {i : Instr} {s t : State} {f : Generator params → Result}
    (h : withGenerator i.ctx s f = .next t)
    (hf : ∀ g, f g = .next t → nextShape i s t) : nextShape i s t := by
  rcases withGenerator_next h with ⟨_, rfl⟩ | ⟨g, _, hg⟩
  · exact .inl ⟨_, by decide, rfl⟩
  · exact hf g hg

theorem nextShape_of_respond {i : Instr} {s t : State} {x : Context params} {v : U64}
    (h : Host.Outcome.next ((s.setContext i.ctx x).respond .ok v) = (.next t : Result)) : nextShape i s t := by
  cases h
  exact .inr ⟨x, [], v, by rw [State.writeCells_nil], fun _ => rfl⟩

/-- The one inversion lemma of `exec`: whatever the command, its next state has this shape. -/
theorem exec_next_shape {i : Instr} {s t : State} (h : exec i s = .next t) : nextShape i s t := by
  cases i with
  | initRs c seed => exact nextShape_of_initContext h
  | initLcg c seed => exact nextShape_of_initContext h
  | initCs c seed => exact nextShape_of_initContext h
  | initMt c seed => exact nextShape_of_initContext h
  | destroy c => exact nextShape_of_withGenerator h fun _ hg => nextShape_of_respond hg
  | reseed c seed =>
    exact nextShape_of_withGenerator (withSeedDuty_next h).2 fun _ hg => nextShape_of_respond hg
  | next32 c => exact nextShape_of_withGenerator h fun _ hg => nextShape_of_respond hg
  | next64 c => exact nextShape_of_withGenerator h fun _ hg => nextShape_of_respond hg
  | nextD c => exact nextShape_of_withGenerator h fun _ hg => nextShape_of_respond hg
  | nextS c => exact nextShape_of_withGenerator h fun _ hg => nextShape_of_respond hg
  | fill c addr len =>
    refine nextShape_of_withGenerator h fun g hg => ?_
    dsimp only at hg
    split at hg
    · rename_i e he
      cases hg
      exact .inl ⟨e, fillCheck_ne_ok he, rfl⟩
    · cases hg
      exact .inr ⟨_, _, _, rfl, fun hw => by cases hw⟩
  | jump c =>
    refine nextShape_of_withGenerator h fun g hg => ?_
    cases g with
    | rs st => exact nextShape_of_respond hg
    | lcg st => cases hg; exact .inl ⟨_, by decide, rfl⟩
    | cs st => cases hg; exact .inl ⟨_, by decide, rfl⟩
    | mt st => cases hg; exact .inl ⟨_, by decide, rfl⟩

end Sys2Proof.Machine
end

