-- ==== Sys2Proof/Laws/PerInstr.lean ====
section
/-! SUPPORT. Families of statements proved one lemma per command. -/

namespace Sys2Proof.Laws.EncodesItsRow

/-- The encoding of a command has its table row's fixed bits, the command's context in bits 23:20, and nothing in the
arguments it does not use (30_encoding.md R70, R72, R74, R80). -/
def Statement (i : Instr) : Prop :=
  (encode i).word &&& i.row.mask = i.row.pattern ∧ ctxField (encode i).word = i.ctx

/-- The two facts about a command word with opcode `op` and kind code `k`, on every context. -/
abbrev WordFacts (op : U8) (k : BitVec 4) (pattern : U32) : Prop :=
  ∀ c : CtxIndex, commandWord op c k &&& 0xFF0FFFFF = pattern ∧ ctxField (commandWord op c k) = c

theorem initRs (c : CtxIndex) (seed : U64) : Statement (.initRs c seed) :=
  (by decide : WordFacts 1 0 0x01000000) c

theorem initLcg (c : CtxIndex) (seed : U64) : Statement (.initLcg c seed) :=
  (by decide : WordFacts 1 1 0x01010000) c

theorem initCs (c : CtxIndex) (seed : U64) : Statement (.initCs c seed) :=
  (by decide : WordFacts 1 2 0x01020000) c

theorem initMt (c : CtxIndex) (seed : U64) : Statement (.initMt c seed) :=
  (by decide : WordFacts 1 3 0x01030000) c

theorem destroy (c : CtxIndex) : Statement (.destroy c) :=
  (by decide : WordFacts 2 0 0x02000000) c

theorem reseed (c : CtxIndex) (seed : U64) : Statement (.reseed c seed) :=
  (by decide : WordFacts 3 0 0x03000000) c

theorem next32 (c : CtxIndex) : Statement (.next32 c) :=
  (by decide : WordFacts 0x10 0 0x10000000) c

theorem next64 (c : CtxIndex) : Statement (.next64 c) :=
  (by decide : WordFacts 0x11 0 0x11000000) c

theorem nextD (c : CtxIndex) : Statement (.nextD c) :=
  (by decide : WordFacts 0x12 0 0x12000000) c

theorem nextS (c : CtxIndex) : Statement (.nextS c) :=
  (by decide : WordFacts 0x13 0 0x13000000) c

theorem fill (c : CtxIndex) (addr len : U64) : Statement (.fill c addr len) :=
  (by decide : WordFacts 0x20 0 0x20000000) c

theorem jump (c : CtxIndex) : Statement (.jump c) :=
  (by decide : WordFacts 0x30 0 0x30000000) c

end Sys2Proof.Laws.EncodesItsRow
end

