-- ==== Sys2Proof/Tests/Slice0.lean ====
section
/-! SUPPORT. Tests of the model against 95_test_vectors.md and the worked examples of the rules, the refusals of the
well-formedness checks, and for every statement with hypotheses a concrete state and operands that meet them. -/

namespace Sys2Proof.Tests

open Sys2Proof.Machine

/-! ### Helpers -/

/-- The state after reset with one live context. -/
def live (c : CtxIndex) (g : Generator params) : State := State.reset.setContext c (.live g)

/-- The state after reset with one host event pending. -/
def pending (e : HostEvent) : State := { State.reset with events := [e] }

/-- A command with `time_in = 1`. -/
def cmd (word : U32) (arg0 arg1 : U64) : HostEvent := .command ⟨⟨word, arg0, arg1⟩, 1⟩

/-- The state of a `next` outcome. -/
def after (o : Result) : Option State :=
  match o with
  | .next s => some s
  | .fault _ => none
  | .refused _ => none

/-- The response of an outcome. -/
def rspOf (o : Result) : Option Response := (after o).bind State.rsp

/-- One context after an outcome. -/
def ctxOf (c : CtxIndex) (o : Result) : Option (Context params) := (after o).map fun s => s.context c

/-- The bytes on the write port, as numbers, after an outcome. -/
def bytesOf (o : Result) : List Nat := ((after o).map fun s => s.writes.map fun w => w.2.toNat).getD []

def rs42 : RsState := ⟨0xBDD732262FEB6E95, 0x28EFE333B266F103, 0x47526757130F9F52, 0x581CE1FF0E4AE394⟩
def lcg42 : LcgState := ⟨0xD0A82278FE2A17A8, 0x55⟩
def cs0 : CsState params.csN := csSeed params 0x0123456789ABCDEF

/-! ### Well-formedness refuses ill-formed terms (R4, R252) -/

theorem test_wf_refuses_initRs_zero : Instr.wf 0 (.initRs 0 0) = false := by decide
theorem test_wf_refuses_initLcg_zero : Instr.wf 0 (.initLcg 0 0) = false := by decide
theorem test_wf_refuses_initCs_zero : Instr.wf 0 (.initCs 0 0) = false := by decide
theorem test_wf_refuses_initMt_zero : Instr.wf 0 (.initMt 0 0) = false := by decide
theorem test_wf_refuses_reseed_zero : Instr.wf 0 (.reseed 0 0) = false := by decide
theorem test_wf_takes_time : Instr.wf 1 (.reseed 0 0) = true := by decide
theorem test_wf_refuses_nctx : { params with nctx := 0 }.wf = false ∧ { params with nctx := 17 }.wf = false := by decide
theorem test_wf_takes_this_build : params.wf = true := by decide
theorem test_wf_refuses_seedW :
    { params with
      seedW := 32, seedMix := fun _ => #v[0, 0, 0, 0], lcgInitState := fun _ i => i
      csInit := fun _ => Vector.replicate 16 0 }.wf = false := by decide
theorem test_wf_refuses_mtN : { params with mtN := 1024, mtN_pos := by decide }.wf = false := by decide
theorem test_wf_refuses_csN :
    { params with csN := 32, csN_pos := by decide, csInit := fun _ => Vector.replicate 32 0 }.wf = false := by decide
theorem test_wf_refuses_aw : { params with aw := 0 }.wf = false ∧ { params with aw := 65 }.wf = false := by decide
theorem test_wf_refuses_rotates : { params with rsR := 64 }.wf = false ∧ { params with rsB := 0 }.wf = false := by decide
theorem test_wf_refuses_shifts :
    { params with rsA := 64 }.wf = false ∧ { params with lcgXsShift := 64 }.wf = false ∧
      { params with lcgOutShift := 64 }.wf = false ∧ { params with lcgRotBits := 6 }.wf = false := by decide

/-! ### Decoding: every constructor's word written out from R70 and R74 (95 section 2.1) -/

theorem test_decode_initRs : decode ⟨0x01000000, 0x2A, 0⟩ = .command (.initRs 0 0x2A) := by decide
theorem test_decode_initLcg : decode ⟨0x01110000, 0x2A, 0⟩ = .command (.initLcg 1 0x2A) := by decide
theorem test_decode_initCs :
    decode ⟨0x01220000, 0x0123456789ABCDEF, 0⟩ = .command (.initCs 2 0x0123456789ABCDEF) := by decide
theorem test_decode_initMt : decode ⟨0x01330000, 0x1571, 0⟩ = .command (.initMt 3 0x1571) := by decide
theorem test_decode_destroy : decode ⟨0x02F00000, 8, 9⟩ = .command (.destroy 15) := by decide
theorem test_decode_reseed : decode ⟨0x03000000, 0x2A, 9⟩ = .command (.reseed 0 0x2A) := by decide
theorem test_decode_next32 : decode ⟨0x10200000, 8, 9⟩ = .command (.next32 2) := by decide
theorem test_decode_next64 : decode ⟨0x11100000, 8, 9⟩ = .command (.next64 1) := by decide
theorem test_decode_nextD : decode ⟨0x12000000, 0, 0⟩ = .command (.nextD 0) := by decide
theorem test_decode_nextS : decode ⟨0x13000000, 0, 0⟩ = .command (.nextS 0) := by decide
theorem test_decode_fill : decode ⟨0x20100000, 0x1000, 13⟩ = .command (.fill 1 0x1000 13) := by decide
theorem test_decode_jump : decode ⟨0x30100000, 0, 0⟩ = .command (.jump 1) := by decide
theorem test_decode_unknown_kind :
    decode ⟨0x01240000, 1, 0⟩ = .unknownKind 2 4 ∧ decode ⟨0x010F0000, 1, 0⟩ = .unknownKind 0 15 := by decide
theorem test_decode_illegal :
    decode ⟨0x00000000, 0, 0⟩ = .illegal .unassignedOpcode ∧ decode ⟨0xFFFFFFFF, 0, 0⟩ = .illegal .unassignedOpcode ∧
      decode ⟨0x11000001, 0, 0⟩ = .illegal .reservedBits ∧ decode ⟨0x11010000, 0, 0⟩ = .illegal .kindBits ∧
      decode ⟨0x01F48000, 0, 0⟩ = .illegal .reservedBits := by decide
theorem test_decodeTableWord :
    decodeTableWord 32 0x01330000 = some (.initMt 3 0) ∧ decodeTableWord 32 0x40000000 = none := by decide
theorem test_decodeTableWord_arguments :
    decodeTableWord 160 (0x20100000 + 0x1000 * 2 ^ 32 + 13 * 2 ^ 96) = some (.fill 1 0x1000 13) := by decide

/-! ### The commands, one step each (R105 to R117, 95 sections 2.2 to 2.8) -/

theorem test_initRs_42 : ctxOf 0 (exec (.initRs 0 42) State.reset) = some (.live (.rs rs42)) := by decide
theorem test_initLcg_42 : ctxOf 1 (exec (.initLcg 1 42) State.reset) = some (.live (.lcg lcg42)) := by decide
theorem test_initCs_vector :
    (csSeed params 0x0123456789ABCDEF).w.toList.take 3 = [0x89ABCDEF, 0x01234567, 0x89ABCDEF] := by decide
theorem test_initMt_5489 :
    (mtSeed params 5489).mt.toList.take 3 = [0x00001571, 0x4D98EE96, 0xAF25F095] ∧
      (mtSeed params 5489).mt.toList.getD 623 0 = 0x04C46D8C := by decide +kernel
theorem test_init_takes_time_in :
    ctxOf 0 (exec (.initRs 0 0) { State.reset with timeIn := 42 }) = some (.live (.rs rs42)) := by decide
theorem test_init_occupied : rspOf (exec (.initMt 0 1) (live 0 (.rs rs42))) = some ⟨.eAlloc, 0⟩ := by decide
theorem test_init_missing : rspOf (exec (.initRs 4 1) State.reset) = some ⟨.eAlloc, 0⟩ := by decide
theorem test_destroy : ctxOf 0 (exec (.destroy 0) (live 0 (.lcg lcg42))) = some .empty := by decide
theorem test_destroy_empty : rspOf (exec (.destroy 0) State.reset) = some ⟨.eNoGen, 0⟩ := by decide
theorem test_reseed_42 : ctxOf 0 (exec (.reseed 0 42) (live 0 (.rs ⟨1, 2, 3, 4⟩))) = some (.live (.rs rs42)) := by decide
theorem test_next32_rs : rspOf (exec (.next32 0) (live 0 (.rs rs42))) = some ⟨.ok, 0x4476689F⟩ := by decide
theorem test_next32_mt :
    rspOf (exec (.next32 3) (live 3 (.mt (mtSeed params 5489)))) = some ⟨.ok, 0xD091BB5C⟩ := by decide +kernel
theorem test_next64_lcg :
    rspOf (exec (.next64 1) (live 1 (.lcg lcg42))) = some ⟨.ok, 0x78540B295459B830⟩ := by decide
theorem test_next64_cs_wraps :
    rspOf (exec (.next64 2) (live 2 (.cs { cs0 with pos := 15 }))) = some ⟨.ok, 0x0123456789ABCDEF⟩ ∧
      ctxOf 2 (exec (.next64 2) (live 2 (.cs { cs0 with pos := 15 }))) = some (.live (.cs { cs0 with pos := 1 })) := by
  decide
theorem test_nextD_rs : rspOf (exec (.nextD 0) (live 0 (.rs rs42))) = some ⟨.ok, 0x3FEA0EC9A9E88ECD⟩ := by decide
theorem test_nextD_mt :
    rspOf (exec (.nextD 0) (live 0 (.mt (mtSeed params 42)))) = some ⟨.ok, 0x3FD7F87719B2FA8E⟩ := by decide +kernel
theorem test_nextS_cs : rspOf (exec (.nextS 0) (live 0 (.cs cs0))) = some ⟨.ok, 0x3FE13579BDE02468⟩ := by decide
theorem test_fill_rs :
    bytesOf (exec (.fill 0 0x1000 13) (live 0 (.rs rs42))) =
      [0x9F, 0x68, 0x76, 0x44, 0x4F, 0x4D, 0x76, 0xD0, 0x91, 0x37, 0x6F, 0x57, 0x74] := by decide
theorem test_fill_range :
    rspOf (exec (.fill 0 0xFFFFFFFFFFFFFFF8 8) (live 0 (.rs rs42))) = some ⟨.ok, 0⟩ ∧
      rspOf (exec (.fill 0 0xFFFFFFFFFFFFFFF8 9) (live 0 (.rs rs42))) = some ⟨.eRange, 0⟩ := by decide
theorem test_jump : ctxOf 0 (exec (.jump 0) (live 0 (.rs ⟨1, 2, 3, 4⟩))) =
    some (.live (.rs ⟨0x8C7A153956B5F3D1, 0x701F1A713401D85E, 0x6527F66A65469085, 0x8386B786C4408050⟩)) := by
  decide +kernel
theorem test_jump_lcg : rspOf (exec (.jump 1) (live 1 (.lcg lcg42))) = some ⟨.eUnsup, 0⟩ := by decide

/-! ### State functions at their corners (R113, R143, R163, R182, R183) -/

theorem test_rsStep_all_ones :
    rsStep params ⟨0xFFFFFFFFFFFFFFFF, 0xFFFFFFFFFFFFFFFF, 0xFFFFFFFFFFFFFFFF, 0xFFFFFFFFFFFFFFFF⟩ =
      (0xFFFFFFFFFF7FFFFE, ⟨0xFFFFFFFFFFFFFFFF, 0xFFFFFFFFFFFFFFFF, 0xFFFFFFFFFFFE0000, 0⟩) := by decide
theorem test_lcgDraw_rot_seven :
    lcgDraw params ⟨0xE000000123456789, 1⟩ = (0x48000E00, ⟨0xEB5D79E9904D2A16, 1⟩) := by decide
/-- R164 (5): with `LCG_ROT_BITS = 5` the first draw of seed 42 is the published generator's. -/
theorem test_lcgDraw_five_bits : (lcgDraw { params with lcgRotBits := 5 } lcg42).1 = 0x40B29785 := by decide
theorem test_mtRegen_in_place :
    (mtTwistAt params (mtTwistAt params (mtSeed params 5489).mt 0) 227).toList.getD 227 0 = 0x53E4F8A7 := by
  decide +kernel
theorem test_mtTemper : mtTemper params 0x12345678 = 0x2B7E4A2D ∧ mtTemper params 0x9908B0DF = 0xFE97EAEC := by decide
theorem test_binary64 :
    binary64 1 = 0x3CA0000000000000 ∧ binary64 (2 ^ 52) = 0x3FE0000000000000 ∧
      binary64 (2 ^ 53 - 1) = 0x3FEFFFFFFFFFFFFF := by decide
theorem test_memory_write_replaces : Memory.write [(3, 1), (7, 2)] 7 9 = [(3, 1), (7, 9)] := by decide
theorem test_memory_write_takes_out : Memory.write [(3, 1), (7, 2)] 3 0 = [(7, 2)] := by decide
theorem test_memory_reads_everywhere : Memory.read [(3, 1), (7, 2)] 7 = 2 ∧ Memory.read [(3, 1), (7, 2)] 8 = 0 := by
  decide
theorem test_status_codes :
    [Status.ok, .eKind, .eAlloc, .eNoGen, .eNoBuf, .eZLen, .eRange, .eUnsup, .eIllCmd].map
      (fun e => e.code.toNat) = [0, 1, 2, 3, 4, 5, 6, 7, 8] := by decide

/-! ### The step -/

theorem test_step_illegal : rspOf (step (pending (cmd 0x01F48000 1 0))) = some ⟨.eIllCmd, 0⟩ := by decide
theorem test_step_unknown_kind : rspOf (step (pending (cmd 0x01950000 1 0))) = some ⟨.eKind, 0⟩ := by decide
theorem test_step_refuses_broken_duty :
    step (pending (.command ⟨⟨0x01950000, 0, 0⟩, 0⟩)) = .refused .zeroSeedAndZeroTime ∧
      exec (.initRs 4 0) { State.reset with timeIn := 0 } = .refused .zeroSeedAndZeroTime ∧
      exec (.reseed 0 0) { State.reset with timeIn := 0 } = .refused .zeroSeedAndZeroTime := ⟨rfl, rfl, rfl⟩
theorem test_step_reset :
    (after (step { live 0 (.rs rs42) with events := [.reset] })).map (fun s => s.context 0) = some .empty := by decide
theorem test_step_withFetchWord :
    rspOf (step (State.reset.withFetchWord 32 0x01030000)) = some ⟨.ok, 0⟩ ∧
      rspOf (step (State.reset.withFetchWord 32 0x11000000)) = some ⟨.eNoGen, 0⟩ := by decide

/-! ### Witnesses: concrete states and operands that meet the hypotheses of each statement -/

theorem witness_EncodeOfDecodedWord :
    decode ⟨0x20100000, 0x1000, 13⟩ = .command (.fill 1 0x1000 13) ∧ decode ⟨0x03100000, 7, 9⟩ = .command (.reseed 1 7) ∧
      decode ⟨0x01F30000, 7, 9⟩ = .command (initOf .classicTwister 15 7) := by decide

theorem witness_DecodesExactlyByMaskAndMatch :
    (0x30F00000 : U32) &&& (Instr.jump 0).row.mask = (Instr.jump 0).row.pattern ∧
      decode ⟨0x30F00000, 0, 0⟩ = .command (.jump 15) := by decide

theorem witness_IllegalWordAnswersEIllCmd :
    (pending (cmd 0xFFFFFFFF 1 2)).events = .command ⟨⟨0xFFFFFFFF, 1, 2⟩, 1⟩ :: [] ∧ illegalWord 0xFFFFFFFF ∧
      illegalWord 0x01F48000 ∧ illegalWord 0x11010000 := by decide

theorem witness_UnknownKindAnswersEKind :
    (pending (cmd 0x01040000 0 2)).events = .command ⟨⟨0x01040000, 0, 2⟩, 1⟩ :: [] ∧ unknownKindWord 0x01040000 ∧
      unknownKindWord 0x01FF0000 ∧ ((0 : U64) ≠ 0 ∨ (1 : U64) ≠ 0) := by decide

theorem witness_StepRunsDecodedCommand :
    (pending (cmd 0x01330000 5489 0)).events = .command ⟨⟨0x01330000, 5489, 0⟩, 1⟩ :: [] ∧
      decode ⟨0x01330000, 5489, 0⟩ = .command (.initMt 3 5489) := by decide

theorem witness_ResetEventEmptiesContexts :
    { live 0 (.rs rs42) with events := [.reset] }.events = HostEvent.reset :: [] := by decide

theorem witness_IdleStepChangesNothing : (live 0 (.rs rs42)).events = [] := by decide

theorem witness_AfterResetNothingIsSeeded :
    initKind (.next64 0) = none ∧ (Instr.next64 0).wf 0 = true ∧ initKind (.reseed 0 0) = none ∧
      (Instr.reseed 0 0).wf 1 = true := by decide

theorem witness_InitRsSeedsRotateShift :
    (3 : CtxIndex).toNat < params.nctx ∧ State.reset.context 3 = .empty ∧
      ((0 : U64) ≠ 0 ∨ State.reset.timeIn ≠ 0) := by decide

theorem witness_InitLcgSeedsLcg :
    (0 : CtxIndex).toNat < params.nctx ∧ State.reset.context 0 = .empty ∧
      ((0x8000000000000001 : U64) ≠ 0 ∨ State.reset.timeIn ≠ 0) := by decide

theorem witness_InitCsSeedsCipherStream :
    (2 : CtxIndex).toNat < params.nctx ∧ (live 0 (.rs rs42)).context 2 = .empty ∧
      ((1 : U64) ≠ 0 ∨ (live 0 (.rs rs42)).timeIn ≠ 0) := by decide

theorem witness_InitMtSeedsTwister :
    (1 : CtxIndex).toNat < params.nctx ∧ (live 0 (.rs rs42)).context 1 = .empty ∧
      ((0x100000000 : U64) ≠ 0 ∨ (live 0 (.rs rs42)).timeIn ≠ 0) := by decide

theorem witness_InitOnTakenOrMissingSlotFails :
    params.nctx ≤ (4 : CtxIndex).toNat ∧ (live 0 (.rs rs42)).context 0 = .live (.rs rs42) ∧
      ((0 : U64) ≠ 0 ∨ (live 0 (.rs rs42)).timeIn ≠ 0) := by decide

theorem witness_ZeroSeedAndZeroTimeIsRefused :
    { State.reset with timeIn := 0 }.timeIn = 0 ∧
      (pending (.command ⟨⟨0x01950000, 0, 0⟩, 0⟩)).events = .command ⟨⟨0x01950000, 0, 0⟩, 0⟩ :: [] ∧
      unknownKindWord 0x01950000 := by decide

theorem witness_DestroyEmptiesContext :
    (3 : CtxIndex).toNat < params.nctx ∧ (live 3 (.cs cs0)).context 3 = .live (.cs cs0) := by decide

theorem witness_ReseedKeepsKindAndRestarts :
    (1 : CtxIndex).toNat < params.nctx ∧ (live 1 (.lcg lcg42)).context 1 = .live (.lcg lcg42) ∧
      ((7 : U64) ≠ 0 ∨ (live 1 (.lcg lcg42)).timeIn ≠ 0) := by decide

theorem witness_ReseedEqualsDestroyThenInit :
    (live 1 (.lcg lcg42)).context 1 = .live (.lcg lcg42) ∧
      ∃ t, exec (.destroy 1) (live 1 (.lcg lcg42)) = .next t := ⟨by decide, _, rfl⟩

theorem witness_NullGeneratorAnswersENoGen :
    initKind (.jump 3) = none ∧ (Instr.jump 3).wf State.reset.timeIn = true ∧ State.reset.context 3 = .empty ∧
      initKind (.reseed 4 0) = none ∧ (Instr.reseed 4 0).wf State.reset.timeIn = true ∧
      params.nctx ≤ (Instr.reseed 4 0).ctx.toNat := by decide

theorem witness_RotateShiftDraws :
    (0 : CtxIndex).toNat < params.nctx ∧ (live 0 (.rs rs42)).context 0 = .live (.rs rs42) := by decide

theorem witness_LcgDraws :
    (3 : CtxIndex).toNat < params.nctx ∧ (live 3 (.lcg lcg42)).context 3 = .live (.lcg lcg42) := by decide

theorem witness_CipherStreamDraws :
    (2 : CtxIndex).toNat < params.nctx ∧
      (live 2 (.cs { cs0 with pos := 16 })).context 2 = .live (.cs { cs0 with pos := 16 }) := by decide

theorem witness_TwisterDraws :
    (3 : CtxIndex).toNat < params.nctx ∧
      (live 3 (.mt (mtSeed params 5489))).context 3 = .live (.mt (mtSeed params 5489)) := ⟨by decide, rfl⟩

theorem witness_Binary64IsExact : (0 : Nat) < 2 ^ 53 - 1 ∧ 2 ^ 53 - 1 < 2 ^ 53 := by decide

theorem witness_DoublesAreBelowOne :
    ∃ t r, exec (.nextD 0) (live 0 (.rs rs42)) = .next t ∧ t.rsp = some r := ⟨_, _, rfl, rfl⟩

theorem witness_FillWritesTheDrawnBytes :
    (0 : CtxIndex).toNat < params.nctx ∧ (live 0 (.rs rs42)).context 0 = .live (.rs rs42) ∧
      (0xFFFFFFFFFFFFFFF8 : U64) ≠ 0 ∧ (8 : U64) ≠ 0 ∧
      (0xFFFFFFFFFFFFFFF8 : U64).toNat + (8 : U64).toNat ≤ 2 ^ 64 := by decide

theorem witness_FillMemoryReadsBack :
    (live 0 (.rs rs42)).context 0 = .live (.rs rs42) ∧ (1 : U64).toNat + (9 : U64).toNat ≤ 2 ^ 64 ∧
      ∃ t, exec (.fill 0 1 9) (live 0 (.rs rs42)) = .next t := ⟨by decide, by decide, _, rfl⟩

theorem witness_NullAddressIsNeverWritten :
    ∃ t, step { live 0 (.rs rs42) with events := [cmd 0x20000000 1 9] } = .next t := ⟨_, rfl⟩

theorem witness_MemoryIsATotalMap :
    ∀ a, 2 ^ params.aw ≤ a → (fun x : Nat => if x = 7 then (3 : U8) else Memory.unlisted) a = Memory.unlisted := by
  intro a h
  have : a ≠ 7 := by
    rintro rfl
    exact absurd h (by decide)
  simp [this]

theorem witness_FillChecksItsBuffer :
    (live 0 (.rs rs42)).context 0 = .live (.rs rs42) ∧ (0 : U64) = 0 ∧ (1 : U64) ≠ 0 ∧
      2 ^ 64 < (0xFFFFFFFFFFFFFFFF : U64).toNat + (2 : U64).toNat := by decide

theorem witness_FillSplitsAtMultiplesOfEight :
    (live 1 (.lcg lcg42)).context 1 = .live (.lcg lcg42) ∧ (8 : U64).toNat % 8 = 0 ∧
      (0x1000 : U64).toNat + (8 : U64).toNat + (5 : U64).toNat ≤ 2 ^ 64 ∧ (8 : U64).toNat + (5 : U64).toNat < 2 ^ 64 ∧
      ∃ t, exec (.fill 1 0x1000 8) (live 1 (.lcg lcg42)) = .next t :=
  ⟨by decide, by decide, by decide, by decide, _, rfl⟩

theorem witness_JumpAppliesTheJumpPolynomial :
    (0 : CtxIndex).toNat < params.nctx ∧ (live 0 (.rs rs42)).context 0 = .live (.rs rs42) := by decide

theorem witness_JumpIsRotateShiftOnly :
    (live 1 (.lcg lcg42)).context 1 = .live (.lcg lcg42) ∧ (Generator.lcg (p := params) lcg42).kind ≠ .rotateShift ∧
      (Generator.cs (p := params) cs0).kind ≠ .rotateShift ∧ (Generator.mt (p := params) (mtSeed params 1)).kind ≠ .rotateShift := by decide

theorem witness_JumpAdvances2Pow128Steps : (340282366920938463463374607431768211456 : Nat) = 2 ^ 128 := by decide

theorem witness_JumpIsInvertible : rs42 ≠ .zero := by decide

theorem witness_SeedMixWordsAreDistinct : (seedMixDefault 0)[3] = (seedMixDefault 0)[3] ∧ 3 < 4 := by decide

theorem witness_TwisterIndexCountsDraws : (1 : Nat) ≤ 625 := by decide

theorem witness_CipherStreamCyclesItsWords : (1 : Nat) ≤ 17 := by decide

theorem witness_StepKeepsInvariant :
    { live 1 (.lcg lcg42) with events := [cmd 0x10100000 0 0] }.inv ∧
      ∃ t, step { live 1 (.lcg lcg42) with events := [cmd 0x10100000 0 0] } = .next t := ⟨by decide, _, rfl⟩

theorem witness_StepKeepsRotateShiftNonzero :
    { live 0 (.rs rs42) with events := [cmd 0x10000000 0 0] }.rsNonzero ∧
      ∃ t, step { live 0 (.rs rs42) with events := [cmd 0x10000000 0 0] } = .next t := ⟨by decide, _, rfl⟩

theorem witness_FailedCommandChangesNothing :
    (∃ t r, step (pending (cmd 0xFFFFFFFF 1 2)) = .next t ∧ t.rsp = some r ∧ r.status ≠ .ok) ∧
      ∃ t r, exec (.jump 1) (live 1 (.lcg lcg42)) = .next t ∧ t.rsp = some r ∧ r.status ≠ .ok :=
  ⟨⟨_, _, rfl, rfl, by decide⟩, _, _, rfl, rfl, by decide⟩

theorem witness_OtherContextsUnchanged :
    (∃ t, exec (.next32 1) (live 1 (.lcg lcg42)) = .next t) ∧ (0 : CtxIndex) ≠ (Instr.next32 1).ctx := ⟨⟨_, rfl⟩, by decide⟩

theorem witness_OnlyFillTouchesMemory :
    writesMemory (.next32 1) = false ∧ ∃ t, exec (.next32 1) (live 1 (.lcg lcg42)) = .next t := ⟨rfl, _, rfl⟩

theorem witness_StatusesArePossible : ∃ t, exec (.fill 0 0 0) (live 0 (.rs rs42)) = .next t := ⟨_, rfl⟩

theorem witness_LifeCycleOfAContext :
    (∃ t, exec (.initLcg 3 1) State.reset = .next t) ∧ State.reset.context 3 = .empty ∧
      (∃ t, exec (.destroy 1) (live 1 (.lcg lcg42)) = .next t) ∧
      (live 1 (.lcg lcg42)).context 1 = .live (.lcg lcg42) := ⟨⟨_, rfl⟩, by decide, ⟨_, rfl⟩, by decide⟩

theorem witness_TimeInMattersOnlyForSeedZero :
    readsTimeIn (.reseed 1 7) = false ∧ ∃ t, exec (.reseed 1 7) (live 1 (.lcg lcg42)) = .next t := ⟨rfl, _, rfl⟩

theorem witness_SameGeneratorSameAnswers :
    (0 : CtxIndex).toNat < params.nctx ∧ (3 : CtxIndex).toNat < params.nctx ∧
      (live 0 (.rs rs42)).context 0 = (live 3 (.rs rs42)).context 3 ∧
      (live 0 (.rs rs42)).timeIn = (live 3 (.rs rs42)).timeIn ∧
      ∀ i ∈ [Instr.next64 0, .jump 0, .reseed 0 0], i.ctx = 0 := by decide

theorem witness_InterleavingIsInvisible :
    ∀ i ∈ [Instr.initRs 0 7, .initLcg 2 0, .next64 0, .next32 2], i.wf State.reset.timeIn = true := by decide

theorem witness_EveryCommandIsAnswered :
    (pending (cmd 0x01000000 0 0)).dutyKept ∧
      (pending (cmd 0x01000000 0 0)).events = .command ⟨⟨0x01000000, 0, 0⟩, 1⟩ :: [] := by decide

theorem witness_NothingStopsTheBlock : (pending (cmd 0x01000000 0 0)).dutyKept := by decide

end Sys2Proof.Tests
end

namespace Sys2Proof.Machine

/-! # The linear algebra of the rotate-shift core

R144 and R223 as far as R31 item 5 needs them: seeding, the update and the jump never give the all-zero words. -/

/-! ## Words: shifts and rotates are linear, and a shift is not the identity on any word but 0 -/

theorem rotl64_xor (a b : U64) (k : Nat) : rotl64 (a ^^^ b) k = rotl64 a k ^^^ rotl64 b k := by
  ext i hi
  by_cases hk : i < k
  · simp [rotl64, hk]
  · have hout : 64 ≤ 64 - k + i := by omega
    simp [rotl64, hk, BitVec.getLsbD_of_ge _ _ hout]

/-- A rotate by a legal count (R6) loses no bit. -/
theorem rotl64_eq_zero {x : U64} {k : Nat} (hk : k ≤ 64) (h : rotl64 x k = 0) : x = 0 := by
  obtain ⟨hleft, hright⟩ := BitVec.or_eq_zero_iff.mp h
  ext i hi
  by_cases hlow : i + k < 64
  · have hbit := congrArg (·.getLsbD (i + k)) hleft
    simpa [hlow, hi] using hbit
  · have hbit := congrArg (·.getLsbD (i + k - 64)) hright
    have hpos : 64 - k + (i + k - 64) = i := by omega
    simpa [hpos, hi] using hbit

theorem eq_zero_of_xor_shiftLeft_eq_zero {x : U64} {k : Nat} (hk : 0 < k) (h : x ^^^ (x <<< k) = 0) : x = 0 := by
  have hx : x = x <<< k := BitVec.xor_eq_zero_iff.mp h
  ext i hi
  induction i using Nat.strong_induction_on with
  | _ i ih =>
    rw [hx, BitVec.getElem_shiftLeft]
    by_cases hik : i < k
    · simp [hik]
    · simpa [hik] using ih (i - k) (by omega) (by omega)

theorem eq_zero_of_xor_ushiftRight_eq_zero {x : U64} {k : Nat} (hk : 0 < k) (h : x ^^^ (x >>> k) = 0) : x = 0 := by
  have hx : x.toNat = x.toNat / 2 ^ k := by
    rw [← Nat.shiftRight_eq_div_pow, ← BitVec.toNat_ushiftRight, ← BitVec.xor_eq_zero_iff.mp h]
  by_contra hne
  have hpos : 0 < x.toNat := Nat.pos_of_ne_zero fun e => hne (BitVec.eq_of_toNat_eq e)
  have := Nat.div_lt_self hpos (Nat.one_lt_two_pow hk.ne')
  omega

/-! ## The seed mixer is one-to-one (R141) -/

theorem xor_ushiftRight_injective {k : Nat} (hk : 0 < k) : Function.Injective fun x : U64 => x ^^^ (x >>> k) := by
  intro a b h
  have h' : a ^^^ (a >>> k) = b ^^^ (b >>> k) := h
  have key : (a ^^^ b) ^^^ ((a ^^^ b) >>> k) = 0 := by
    calc (a ^^^ b) ^^^ ((a ^^^ b) >>> k) = (a ^^^ (a >>> k)) ^^^ (b ^^^ (b >>> k)) := by
          rw [BitVec.ushiftRight_xor_distrib]; ac_rfl
      _ = 0 := by rw [h', BitVec.xor_self]; rfl
  exact BitVec.xor_eq_zero_iff.mp (eq_zero_of_xor_ushiftRight_eq_zero hk key)

theorem mul_right_injective_of_inverse {c d : U64} (h : c * d = 1) : Function.Injective fun x : U64 => x * c :=
  (IsUnit.of_mul_eq_one d h).mul_left_injective

theorem seedMixer_injective : Function.Injective seedMixer :=
  (xor_ushiftRight_injective (by decide : 0 < 31)).comp <|
    (mul_right_injective_of_inverse (d := 0x319642b2d24d8ec3) (by decide)).comp <|
    (xor_ushiftRight_injective (by decide : 0 < 27)).comp <|
    (mul_right_injective_of_inverse (d := 0x96de1b173f119089) (by decide)).comp <|
    xor_ushiftRight_injective (by decide : 0 < 30)

/-- Seeding never gives the all-zero words: the first two come from different counters (R141, R142). -/
theorem rsSeed_ne_zero (seed : U64) : rsSeed params seed ≠ .zero := by
  intro h
  obtain ⟨h0, h1, -, -⟩ := RsState.mk.inj h
  have hx : seed + 0x9E3779B97F4A7C15 = seed + 0x9E3779B97F4A7C15 + 0x9E3779B97F4A7C15 :=
    seedMixer_injective (h0.trans h1.symm)
  exact absurd (left_eq_add.mp hx) (by decide)

/-! ## Exclusive-or of states, and the update -/

theorem RsState.zero_xor (a : RsState) : RsState.zero.xor a = a := by
  simp [RsState.xor, RsState.zero]

theorem RsState.xor_self (a : RsState) : a.xor a = .zero := by
  simp [RsState.xor, RsState.zero]

theorem RsState.xor_xor_xor_comm (a b c d : RsState) : (a.xor b).xor (c.xor d) = (a.xor c).xor (b.xor d) := by
  simp only [RsState.xor, RsState.mk.injEq]
  exact ⟨by ac_rfl, by ac_rfl, by ac_rfl, by ac_rfl⟩

theorem rsUpdate_xor (p : Config.Params) (a b : RsState) :
    rsUpdate p (a.xor b) = (rsUpdate p a).xor (rsUpdate p b) := by
  simp only [rsUpdate, RsState.xor, rotl64_xor, BitVec.shiftLeft_xor_distrib, RsState.mk.injEq]
  exact ⟨by ac_rfl, by ac_rfl, by ac_rfl, by ac_rfl⟩

/-- The update sends no state but the all-zero one to the all-zero one (R144). -/
theorem rsUpdate_eq_zero {st : RsState} (h : rsUpdate params st = .zero) : st = .zero := by
  obtain ⟨s0, s1, s2, s3⟩ := st
  simp only [rsUpdate, RsState.zero, RsState.mk.injEq] at h ⊢
  obtain ⟨h0, h1, h2, h3⟩ := h
  have h31 : s3 ^^^ s1 = 0 := rotl64_eq_zero (by decide) h3
  have hs0 : s0 = 0 := by simpa [h31] using h0
  have hs1 : s1 = s2 := by simpa [hs0] using h1
  have hs2 : s2 = 0 := by
    subst hs0 hs1
    exact eq_zero_of_xor_shiftLeft_eq_zero (by decide : 0 < 17) (by simpa using h2)
  subst hs0 hs1 hs2
  exact ⟨rfl, rfl, rfl, by simpa using h31⟩

/-! ## The jump is linear -/

theorem jumpScan_xor (p : Config.Params) (bits : List Bool) (acc acc' st st' : RsState) :
    jumpScan p bits (acc.xor acc') (st.xor st') = (jumpScan p bits acc st).xor (jumpScan p bits acc' st') := by
  induction bits generalizing acc acc' st st' with
  | nil => rfl
  | cons b rest ih =>
    cases b
    · simp only [jumpScan, rsStep_snd, rsUpdate_xor, ih, Bool.false_eq_true, if_false]
    · simp only [jumpScan, rsStep_snd, rsUpdate_xor, RsState.xor_xor_xor_comm acc acc', ih, if_true]

/-- The state that a polynomial in the update, given by its coefficients from the lowest up, makes of a state; the
jump is the case of `JUMP_POLY` (R221). -/
def applyPoly (bits : List Bool) (st : RsState) : RsState := jumpScan params bits .zero st

theorem rsJump_eq_applyPoly (st : RsState) : rsJump params st = applyPoly (jumpBits params) st := rfl

theorem applyPoly_xor (bits : List Bool) (a b : RsState) :
    applyPoly bits (a.xor b) = (applyPoly bits a).xor (applyPoly bits b) := by
  simpa [applyPoly, RsState.zero_xor] using jumpScan_xor params bits .zero .zero a b

theorem applyPoly_zero (bits : List Bool) : applyPoly bits .zero = .zero := by
  have h := applyPoly_xor bits .zero .zero
  rwa [RsState.xor_self, RsState.xor_self] at h

/-! ## Sixty-four states side by side

Bit `j` of the word of lane `l` is bit `64 * j + l` of the wide word, so that a shift of every lane is one shift of the
wide word, and one scan of a polynomial runs in all the lanes. -/

/-- The word in lane `l` of a wide word. -/
def laneWord (l : Nat) (x : BitVec 4096) : U64 := BitVec.ofFnLE fun j : Fin 64 => x.getLsbD (64 * j + l)

theorem getElem_laneWord (l : Nat) (x : BitVec 4096) (j : Nat) (hj : j < 64) :
    (laneWord l x)[j] = x.getLsbD (64 * j + l) := by
  simp [laneWord]

theorem getLsbD_laneWord (l : Nat) (x : BitVec 4096) (j : Nat) :
    (laneWord l x).getLsbD j = (decide (j < 64) && x.getLsbD (64 * j + l)) := by
  by_cases hj : j < 64
  · simp [getElem_laneWord, hj]
  · simp [hj, BitVec.getLsbD_of_ge _ j (Nat.not_lt.mp hj)]

theorem laneWord_zero (l : Nat) : laneWord l 0 = 0 := by
  ext j hj; simp [getElem_laneWord]

theorem laneWord_xor (l : Nat) (x y : BitVec 4096) : laneWord l (x ^^^ y) = laneWord l x ^^^ laneWord l y := by
  ext j hj; simp [getElem_laneWord]

theorem laneWord_or (l : Nat) (x y : BitVec 4096) : laneWord l (x ||| y) = laneWord l x ||| laneWord l y := by
  ext j hj; simp [getElem_laneWord]

theorem laneWord_shiftLeft {l : Nat} (hl : l < 64) (x : BitVec 4096) (k : Nat) :
    laneWord l (x <<< (64 * k)) = laneWord l x <<< k := by
  ext j hj
  have hwide : 64 * j + l < 4096 := by omega
  by_cases hk : j < k
  · have : 64 * j + l < 64 * k := by omega
    simp [getElem_laneWord, hk, this]
  · have hge : ¬ 64 * j + l < 64 * k := by omega
    have hpos : 64 * j + l - 64 * k = 64 * (j - k) + l := by omega
    simp only [BitVec.getElem_shiftLeft, getElem_laneWord, BitVec.getLsbD_shiftLeft, hk, hge, hpos, hwide]
    simp

theorem laneWord_ushiftRight {l : Nat} (x : BitVec 4096) (k : Nat) :
    laneWord l (x >>> (64 * k)) = laneWord l x >>> k := by
  ext j hj
  have hpos : 64 * k + (64 * j + l) = 64 * (k + j) + l := by ring
  by_cases hk : k + j < 64
  · simp [getElem_laneWord, hpos, hk]
  · have hout : 4096 ≤ 64 * (k + j) + l := by omega
    simp [getElem_laneWord, getLsbD_laneWord, hpos, hk, BitVec.getLsbD_of_ge _ _ hout]

/-- Sixty-four rotate-shift states side by side. -/
structure WideState where
  w0 : BitVec 4096
  w1 : BitVec 4096
  w2 : BitVec 4096
  w3 : BitVec 4096
  deriving DecidableEq

/-- The state in lane `l`. -/
def WideState.lane (l : Nat) (x : WideState) : RsState :=
  ⟨laneWord l x.w0, laneWord l x.w1, laneWord l x.w2, laneWord l x.w3⟩

/-- Exclusive-or of two wide states, lane by lane. -/
def WideState.xor (a b : WideState) : WideState := ⟨a.w0 ^^^ b.w0, a.w1 ^^^ b.w1, a.w2 ^^^ b.w2, a.w3 ^^^ b.w3⟩

/-- The update of R143 in every lane. -/
def WideState.update (x : WideState) : WideState :=
  let w2 := x.w2 ^^^ x.w0
  let w3 := x.w3 ^^^ x.w1
  ⟨x.w0 ^^^ w3, x.w1 ^^^ w2, w2 ^^^ (x.w1 <<< (64 * 17)), (w3 <<< (64 * 45)) ||| (w3 >>> (64 * 19))⟩

/-- The scan of R221 in every lane. -/
def WideState.scan : List Bool → WideState → WideState → WideState
  | [], acc, _ => acc
  | b :: rest, acc, x => WideState.scan rest (if b then acc.xor x else acc) x.update

/-- A polynomial in the update, in every lane. -/
def WideState.applyPoly (bits : List Bool) (x : WideState) : WideState := WideState.scan bits ⟨0, 0, 0, 0⟩ x

theorem WideState.lane_zero (l : Nat) : (⟨0, 0, 0, 0⟩ : WideState).lane l = .zero := by
  simp only [WideState.lane, laneWord_zero, RsState.zero]

theorem WideState.lane_xor (l : Nat) (a b : WideState) : (a.xor b).lane l = (a.lane l).xor (b.lane l) := by
  simp [WideState.lane, WideState.xor, RsState.xor, laneWord_xor]

theorem WideState.lane_update {l : Nat} (hl : l < 64) (x : WideState) :
    x.update.lane l = rsUpdate params (x.lane l) := by
  simp only [WideState.lane, WideState.update, rsUpdate, rotl64, laneWord_xor, laneWord_or, laneWord_shiftLeft hl,
    laneWord_ushiftRight]

theorem WideState.lane_scan {l : Nat} (hl : l < 64) (bits : List Bool) (acc x : WideState) :
    (WideState.scan bits acc x).lane l = jumpScan params bits (acc.lane l) (x.lane l) := by
  induction bits generalizing acc x with
  | nil => rfl
  | cons b rest ih =>
    cases b <;> simp [WideState.scan, jumpScan, ih, WideState.lane_update hl, WideState.lane_xor]

theorem WideState.lane_applyPoly {l : Nat} (hl : l < 64) (bits : List Bool) (x : WideState) :
    (x.applyPoly bits).lane l = Machine.applyPoly bits (x.lane l) := by
  rw [WideState.applyPoly, WideState.lane_scan hl, WideState.lane_zero, Machine.applyPoly]

/-- The wide word whose lane `l` holds the word with bit `l` alone, for the lanes below `n`. -/
def unitLanes : Nat → BitVec 4096
  | 0 => 0
  | n + 1 => unitLanes n ||| BitVec.twoPow 4096 (65 * n)

theorem laneWord_twoPow {l n : Nat} (hl : l < 64) (hn : n < 64) :
    laneWord l (BitVec.twoPow 4096 (65 * n)) = if l = n then BitVec.twoPow 64 l else 0 := by
  ext j hj
  have hwide : 65 * n < 4096 := by omega
  by_cases hln : l = n
  · subst hln
    have hbit : 65 * l = 64 * j + l ↔ l = j := by omega
    simp [getElem_laneWord, BitVec.getLsbD_twoPow, hwide, hbit, eq_comm]
  · have hbit : ¬ 65 * n = 64 * j + l := by omega
    simp [getElem_laneWord, BitVec.getLsbD_twoPow, hbit, hln]

theorem laneWord_unitLanes {l : Nat} (hl : l < 64) : laneWord l (unitLanes 64) = BitVec.twoPow 64 l := by
  suffices h : ∀ n ≤ 64, laneWord l (unitLanes n) = if l < n then BitVec.twoPow 64 l else 0 by
    simpa [hl] using h 64 le_rfl
  intro n hn
  induction n with
  | zero => simpa [unitLanes] using laneWord_zero l
  | succ n ih =>
    rw [unitLanes, laneWord_or, ih (by omega), laneWord_twoPow hl (by omega)]
    rcases lt_trichotomy l n with h | h | h
    · simp [h, h.ne, Nat.lt_succ_of_lt h]
    · simp [h]
    · simp [h.not_gt, h.ne', Nat.not_lt.mpr (Nat.succ_le_of_lt h)]

/-! ## The inverse of the jump polynomial -/

/-- The polynomial inverse to `JUMP_POLY` modulo the characteristic polynomial of the update, word 0 first. -/
def unjumpBits : List Bool :=
  [0xE4F165C97B5587ED, 0xD272429846CE3EEF, 0x227F6F8892C33391, 0xDA8CC53A9A74B263].flatMap
    fun w : U64 => (List.range 64).map w.getLsbD

/-- The inverse polynomial undoes the jump on this state. -/
abbrev Restored (st : RsState) : Prop := applyPoly unjumpBits (rsJump params st) = st

theorem Restored.xor {a b : RsState} (ha : Restored a) (hb : Restored b) : Restored (a.xor b) := by
  calc applyPoly unjumpBits (rsJump params (a.xor b))
      = applyPoly unjumpBits ((rsJump params a).xor (rsJump params b)) := by
        simp only [rsJump_eq_applyPoly, applyPoly_xor]
    _ = a.xor b := by rw [applyPoly_xor, ha, hb]

theorem restored_zero : Restored .zero := by
  rw [Restored, rsJump_eq_applyPoly, applyPoly_zero, applyPoly_zero]

theorem restored_lane {x : WideState} (h : (x.applyPoly (jumpBits params)).applyPoly unjumpBits = x) {l : Nat}
    (hl : l < 64) : Restored (x.lane l) := by
  have e := congrArg (WideState.lane l) h
  rwa [WideState.lane_applyPoly hl, WideState.lane_applyPoly hl] at e

/-- What holds of 0 and of every word with one bit set, and of the exclusive-or of any two words it holds of, holds of
every word. -/
theorem word_induction {V : U64 → Prop} (zero : V 0) (unit : ∀ l < 64, V (BitVec.twoPow 64 l))
    (xor : ∀ a b, V a → V b → V (a ^^^ b)) (x : U64) : V x := by
  suffices h : ∀ n ≤ 64, ∀ y : U64, (∀ i, n ≤ i → y.getLsbD i = false) → V y from
    h 64 le_rfl x fun i hi => BitVec.getLsbD_of_ge x i hi
  intro n
  induction n with
  | zero =>
    intro _ y hy
    rwa [show y = 0 from BitVec.eq_of_getLsbD_eq fun i _ => by simp [hy i (Nat.zero_le i)]]
  | succ n ih =>
    intro hn y hy
    cases hbit : y.getLsbD n with
    | false =>
      refine ih (by omega) y fun i hi => ?_
      rcases Nat.eq_or_lt_of_le hi with rfl | hlt
      · exact hbit
      · exact hy i hlt
    | true =>
      have hlow : V (y ^^^ BitVec.twoPow 64 n) := by
        refine ih (by omega) _ fun i hi => ?_
        rcases Nat.eq_or_lt_of_le hi with rfl | hlt
        · simp [hbit, Nat.lt_of_succ_le hn]
        · simp [hy i hlt, hlt.ne]
      have hback : y ^^^ BitVec.twoPow 64 n ^^^ BitVec.twoPow 64 n = y := by
        rw [BitVec.xor_assoc, BitVec.xor_self, BitVec.xor_zero]
      exact hback ▸ xor _ _ hlow (unit n (by omega))

/-- The state with a word in place `i` and 0 in the others. -/
def RsState.single (i : Fin 4) (x : U64) : RsState :=
  ⟨if i = 0 then x else 0, if i = 1 then x else 0, if i = 2 then x else 0, if i = 3 then x else 0⟩

/-- The wide state with a wide word in place `i` and 0 in the others. -/
def WideState.single (i : Fin 4) (x : BitVec 4096) : WideState :=
  ⟨if i = 0 then x else 0, if i = 1 then x else 0, if i = 2 then x else 0, if i = 3 then x else 0⟩

theorem WideState.lane_single (l : Nat) (i : Fin 4) (x : BitVec 4096) :
    (WideState.single i x).lane l = RsState.single i (laneWord l x) := by
  simp only [WideState.lane, WideState.single, RsState.single, apply_ite (laneWord l), laneWord_zero]

theorem RsState.single_zero (i : Fin 4) : RsState.single i 0 = .zero := by
  simp only [RsState.single, ite_self, RsState.zero]

theorem RsState.single_xor (i : Fin 4) (a b : U64) :
    RsState.single i (a ^^^ b) = (RsState.single i a).xor (RsState.single i b) := by
  fin_cases i <;> simp [RsState.single, RsState.xor]

theorem RsState.eq_xor_singles (st : RsState) :
    st = ((RsState.single 0 st.s0).xor (.single 1 st.s1)).xor ((RsState.single 2 st.s2).xor (.single 3 st.s3)) := by
  simp [RsState.single, RsState.xor]

/-- The two polynomials, one after the other, leave each of the 256 states with one bit set as it is: 64 lanes for each
of the four words. -/
theorem unjump_jump_unitLanes : ∀ i : Fin 4,
    ((WideState.single i (unitLanes 64)).applyPoly (jumpBits params)).applyPoly unjumpBits =
      .single i (unitLanes 64) := by
  decide +kernel

theorem restored_single (i : Fin 4) (x : U64) : Restored (.single i x) := by
  refine word_induction (V := fun y => Restored (.single i y)) ?_ (fun l hl => ?_) (fun a b ha hb => ?_) x
  · exact RsState.single_zero i ▸ restored_zero
  · have h := restored_lane (unjump_jump_unitLanes i) hl
    rwa [WideState.lane_single, laneWord_unitLanes hl] at h
  · exact RsState.single_xor i a b ▸ ha.xor hb

/-- The inverse polynomial undoes the jump on every state (R223). -/
theorem unjump_jump (st : RsState) : applyPoly unjumpBits (rsJump params st) = st := by
  have h := ((restored_single 0 st.s0).xor (restored_single 1 st.s1)).xor
    ((restored_single 2 st.s2).xor (restored_single 3 st.s3))
  rwa [← RsState.eq_xor_singles] at h

/-- The jump sends no state but the all-zero one to the all-zero one (R223). -/
theorem rsJump_eq_zero {st : RsState} (h : rsJump params st = .zero) : st = .zero := by
  rw [← unjump_jump st, h, applyPoly_zero]

/-! # What a step does to the state -/

/-! ## One step, and the state after reset -/

/-- What a step that answers a next state has done: nothing, the reset event, a command, or the failure of a word that
is no command (R75, R100, R270). -/
theorem step_next {s t : State} (h : step s = .next t) :
    t = s ∨ (∃ rest, t = { s with events := rest }.resetEvent) ∨
      (∃ cmd rest i, exec i (s.accept cmd rest) = .next t) ∨ ∃ cmd rest e, t = (s.accept cmd rest).fail e := by
  unfold step at h
  rcases s.fetch_cases with ⟨-, hf⟩ | ⟨rest, -, hf⟩ |
    ⟨cmd, rest, -, ⟨i, -, hf⟩ | ⟨c, k, -, -, hf⟩ | ⟨e, -, hf⟩⟩ <;> rw [hf] at h
  · cases h
    exact .inl rfl
  · cases h
    exact .inr (.inl ⟨rest, rfl⟩)
  · exact .inr (.inr (.inl ⟨cmd, rest, i, h⟩))
  · cases h
  · cases h
    exact .inr (.inr (.inr ⟨cmd, rest, e, rfl⟩))

theorem step_of_command {s : State} {cmd : Command} {rest : List HostEvent} {i : Instr}
    (he : s.events = .command cmd :: rest) (hd : decode cmd.packet = .command i) :
    step s = exec i (s.accept cmd rest) := by
  simp only [step, State.fetch, he, hd]

@[simp] theorem State.reset_context (c : CtxIndex) : State.reset.context c = .empty := by
  simp [State.context, State.reset]

/-- Settles O7: taking the event is `State.accept`, which the statement writes out. -/
theorem stepRunsDecodedCommand : Obligations.StepRunsDecodedCommand :=
  fun _ _ _ _ he hd => step_of_command he hd

/-! ## A command on an empty context -/

theorem withSeedDuty_of_kept {seed : U64} {s : State} (h : ¬ dutyBroken seed s.timeIn) (r : Result) :
    withSeedDuty seed s r = r := if_neg h

/-- A `RESEED` is well formed exactly when it keeps the duty of R252. -/
theorem wf_reseed_iff {c : CtxIndex} {seed time : U64} :
    (Instr.reseed c seed).wf time = true ↔ ¬ dutyBroken seed time := by
  simp [Instr.wf, dutyBroken, imp_iff_not_or]

/-- Every command but `INIT` answers `E_NOGEN` on a context that is empty or does not exist (R101). -/
theorem exec_of_context_empty {i : Instr} {s : State} (hk : initKind i = none) (hwf : i.wf s.timeIn = true)
    (he : s.context i.ctx = .empty) : exec i s = .next (s.fail .eNoGen) := by
  cases i with
  | initRs c seed => cases hk
  | initLcg c seed => cases hk
  | initCs c seed => cases hk
  | initMt c seed => cases hk
  | reseed c seed => exact (withSeedDuty_of_kept (wf_reseed_iff.mp hwf) _).trans (withGenerator_of_empty he _)
  | destroy c => exact withGenerator_of_empty he _
  | next32 c => exact withGenerator_of_empty he _
  | next64 c => exact withGenerator_of_empty he _
  | nextD c => exact withGenerator_of_empty he _
  | nextS c => exact withGenerator_of_empty he _
  | fill c addr len => exact withGenerator_of_empty he _
  | jump c => exact withGenerator_of_empty he _

/-- Settles O10: every context is empty, so the null-generator check of R101 answers. -/
theorem afterResetNothingIsSeeded : Obligations.AfterResetNothingIsSeeded :=
  ⟨State.reset_context, rfl, rfl, fun i _ hk hwf => exec_of_context_empty hk hwf (State.reset_context i.ctx)⟩

/-! ## The frame of a command (R34) -/

/-- Settles O50: from the one shape of a next state, whose only write to a context is to the one named. -/
theorem otherContextsUnchanged : Obligations.OtherContextsUnchanged := by
  intro i s t d h
  rcases exec_next_shape h with ⟨e, -, rfl⟩ | ⟨x, ws, v, rfl, -⟩
  · simp
  · simpa using fun hd : d ≠ i.ctx => State.context_setContext_of_ne s x hd

/-! ## The byte writes of a command (R54, R55) -/

/-- A `FILL` that answers a next state has failed, or has passed its checks and made its draws and byte writes
(R116). -/
theorem execFill_next {c : CtxIndex} {addr len : U64} {s t : State} (h : execFill c addr len s = .next t) :
    (∃ e, t = s.fail e) ∨ ∃ g, s.context c = .live g ∧ fillCheck params addr len = none ∧
      t = ((s.setContext c (.live (fillCells params (len.toNat / 8) (len.toNat % 8) addr.toNat g).2)).writeCells
        (fillCells params (len.toNat / 8) (len.toNat % 8) addr.toNat g).1).respond .ok 0 := by
  rcases withGenerator_next h with ⟨-, rfl⟩ | ⟨g, hg, h⟩
  · exact .inl ⟨_, rfl⟩
  · dsimp only at h
    split at h
    · cases h
      exact .inl ⟨_, rfl⟩
    · rename_i hc
      cases h
      exact .inr ⟨g, hg, hc, rfl⟩

/-- The byte writes of a `FILL` whose checks pass lie from 1 to `2^AW - 1` (R55, R56). -/
theorem writesInRange_fillCells {addr len : U64} (h : fillCheck params addr len = none) (g : Generator params) :
    writesInRange (fillCells params (len.toNat / 8) (len.toNat % 8) addr.toNat g).1 := by
  obtain ⟨ha, -, -, hr⟩ := fillCheck_eq_none.mp h
  have hpos : 0 < addr.toNat := Nat.pos_of_ne_zero fun e => ha (BitVec.eq_of_toNat_eq e)
  intro x hx
  obtain ⟨hlow, hhigh⟩ := fillCells_addr params hx
  omega

/-- From one state to the next, byte writes in range have been made, in order, to memory and on the port (R54). -/
def MakesWrites (s t : State) : Prop :=
  ∃ ws, t.mem = s.mem.writeCells ws ∧ t.writes = s.writes ++ ws ∧ writesInRange ws

theorem makesWrites_of_eq {s t : State} (hm : t.mem = s.mem) (hw : t.writes = s.writes) : MakesWrites s t :=
  ⟨[], hm, by simpa using hw, nofun⟩

/-- Every command makes byte writes in range only, and all but `FILL` make none (R54, R55). -/
theorem exec_makesWrites {i : Instr} {s t : State} (h : exec i s = .next t) : MakesWrites s t := by
  cases hi : writesMemory i with
  | false =>
    rcases exec_next_shape h with ⟨e, -, rfl⟩ | ⟨x, ws, v, rfl, hws⟩
    · exact makesWrites_of_eq rfl rfl
    · exact makesWrites_of_eq (by simp [hws hi]) (by simp [hws hi])
  | true =>
    obtain ⟨c, addr, len, rfl⟩ : ∃ c addr len, i = .fill c addr len := by
      cases i with
      | fill c addr len => exact ⟨c, addr, len, rfl⟩
      | _ => cases hi
    rcases execFill_next h with ⟨e, rfl⟩ | ⟨g, -, hc, rfl⟩
    · exact makesWrites_of_eq rfl rfl
    · exact ⟨_, by simp, by simp, writesInRange_fillCells hc g⟩

/-- Memory in canonical form and in range, and byte writes in range: the part of the invariant that is not about
contexts. -/
def State.memInv (s : State) : Prop := s.mem.wf ∧ s.mem.inRange ∧ writesInRange s.writes

theorem exec_keeps_memInv {i : Instr} {s t : State} (h : exec i s = .next t) (hs : s.memInv) : t.memInv := by
  obtain ⟨hwf, hrange, hwrites⟩ := hs
  obtain ⟨ws, hm, hw, hws⟩ := exec_makesWrites h
  refine ⟨hm ▸ Memory.wf_writeCells hwf ws, fun x hx => ?_, fun x hx => ?_⟩
  · rcases Memory.mem_writeCells (hm ▸ hx) with hx | hx
    · exact (hws x hx).2
    · exact hrange x hx
  · rcases List.mem_append.mp (hw ▸ hx) with hx | hx
    · exact hwrites x hx
    · exact hws x hx

theorem step_keeps_memInv {s t : State} (h : step s = .next t) (hs : s.memInv) : t.memInv := by
  have cleared : writesInRange [] := nofun
  have ⟨hwf, hrange, _⟩ := hs
  rcases step_next h with rfl | ⟨rest, rfl⟩ | ⟨cmd, rest, i, hexec⟩ | ⟨cmd, rest, e, rfl⟩
  · exact hs
  · exact ⟨hwf, hrange, cleared⟩
  · exact exec_keeps_memInv hexec ⟨hwf, hrange, cleared⟩
  · exact ⟨hwf, hrange, cleared⟩

/-! ## Properties of Generators that every command keeps -/

/-- A property that every seeding gives, and every draw and the jump keep. -/
structure KeptByCores (P : Generator params → Prop) : Prop where
  ofSeed : ∀ (k : Kind) (seed : BitVec params.seedW), P (Generator.ofSeed params k seed)
  draw32 : ∀ g, P g → P (draw32 params g).2
  jump : ∀ st, P (.rs st) → P (.rs (rsJump params st))

/-- Every live context holds a Generator with the property. -/
def State.allLive (P : Generator params → Prop) (s : State) : Prop := ∀ c g, s.context c = .live g → P g

section
variable {P : Generator params → Prop}

/-- A 64-bit draw leaves the Generator of one or of two 32-bit draws (R103). -/
theorem KeptByCores.draw64 (hP : KeptByCores P) {g : Generator params} (hg : P g) : P (draw64 params g).2 := by
  cases g with
  | rs st => exact hP.draw32 _ hg
  | lcg st => exact hP.draw32 _ (hP.draw32 _ hg)
  | cs st => exact hP.draw32 _ (hP.draw32 _ hg)
  | mt st => exact hP.draw32 _ (hP.draw32 _ hg)

theorem KeptByCores.fillCells (hP : KeptByCores P) (full rem addr : Nat) {g : Generator params} (hg : P g) :
    P (fillCells params full rem addr g).2 := by
  induction full generalizing addr g with
  | zero =>
    by_cases hr : rem = 0
    · simpa [hr] using hg
    · simpa [fillCells_zero params rem addr g hr] using hP.draw64 hg
  | succ n ih => simpa [fillCells_succ] using ih (addr + 8) (hP.draw64 hg)

theorem State.allLive_setContext {s : State} (hs : s.allLive P) {c : CtxIndex} {x : Context params}
    (hx : ∀ g, x = .live g → P g) : (s.setContext c x).allLive P := by
  intro d g hd
  by_cases hdc : d = c
  · subst hdc
    rcases Nat.lt_or_ge d.toNat params.nctx with hlt | hge
    · exact hx g ((State.context_setContext_self s d x hlt).symm.trans hd)
    · exact hs d g (State.setContext_of_ge s d x hge ▸ hd)
  · exact hs d g ((State.context_setContext_of_ne s x hdc).symm.trans hd)

theorem State.allLive_setContext_live {s : State} (hs : s.allLive P) {c : CtxIndex} {g : Generator params} (hg : P g) :
    (s.setContext c (.live g)).allLive P := by
  refine State.allLive_setContext hs fun g' e => ?_
  cases e
  exact hg

theorem allLive_of_withGenerator {s t : State} (hs : s.allLive P) {c : CtxIndex} {f : Generator params → Result}
    (h : withGenerator c s f = .next t) (hf : ∀ g, P g → f g = .next t → t.allLive P) : t.allLive P := by
  rcases withGenerator_next h with ⟨-, rfl⟩ | ⟨g, hg, h⟩
  · exact hs
  · exact hf g (hs c g hg) h

/-- A command that puts a Generator into one context and responds. -/
theorem allLive_of_respond {s t : State} (hs : s.allLive P) {c : CtxIndex} {g : Generator params} {v : U64} (hg : P g)
    (h : Host.Outcome.next ((s.setContext c (.live g)).respond .ok v) = (.next t : Result)) : t.allLive P := by
  cases h
  exact State.allLive_setContext_live hs hg

theorem allLive_of_initContext (hP : KeptByCores P) {s t : State} (hs : s.allLive P) {k : Kind} {c : CtxIndex}
    {seed : U64} (h : initContext k c seed s = .next t) : t.allLive P := by
  obtain ⟨-, rfl | ⟨-, -, rfl⟩⟩ := initContext_next h
  · exact hs
  · exact State.allLive_setContext_live hs (hP.ofSeed _ _)

theorem exec_keeps_allLive (hP : KeptByCores P) {i : Instr} {s t : State} (h : exec i s = .next t)
    (hs : s.allLive P) : t.allLive P := by
  cases i with
  | initRs c seed => exact allLive_of_initContext hP hs h
  | initLcg c seed => exact allLive_of_initContext hP hs h
  | initCs c seed => exact allLive_of_initContext hP hs h
  | initMt c seed => exact allLive_of_initContext hP hs h
  | destroy c =>
    refine allLive_of_withGenerator hs h fun g _ hg => ?_
    cases hg
    exact State.allLive_setContext hs nofun
  | reseed c seed =>
    exact allLive_of_withGenerator hs (withSeedDuty_next h).2 fun g _ => allLive_of_respond hs (hP.ofSeed _ _)
  | next32 c => exact allLive_of_withGenerator hs h fun g hg => allLive_of_respond hs (hP.draw32 g hg)
  | next64 c => exact allLive_of_withGenerator hs h fun g hg => allLive_of_respond hs (hP.draw64 hg)
  | nextD c => exact allLive_of_withGenerator hs h fun g hg => allLive_of_respond hs (hP.draw64 hg)
  | nextS c => exact allLive_of_withGenerator hs h fun g hg => allLive_of_respond hs (hP.draw64 hg)
  | fill c addr len =>
    rcases execFill_next h with ⟨e, rfl⟩ | ⟨g, hg, -, rfl⟩
    · exact hs
    · exact State.allLive_setContext_live hs (hP.fillCells _ _ _ (hs c g hg))
  | jump c =>
    refine allLive_of_withGenerator hs h fun g hg hout => ?_
    cases g with
    | rs st => exact allLive_of_respond hs (hP.jump st hg) hout
    | lcg st => cases hout; exact hs
    | cs st => cases hout; exact hs
    | mt st => cases hout; exact hs

theorem step_keeps_allLive (hP : KeptByCores P) {s t : State} (h : step s = .next t) (hs : s.allLive P) :
    t.allLive P := by
  rcases step_next h with rfl | ⟨rest, rfl⟩ | ⟨cmd, rest, i, hexec⟩ | ⟨cmd, rest, e, rfl⟩
  · exact hs
  · intro c g hc
    rw [State.resetEvent_context] at hc
    cases hc
  · exact exec_keeps_allLive hP hexec hs
  · exact hs

end

/-- A check of contexts that an empty one passes holds of every context exactly when it holds of every Generator. -/
theorem forall_context_iff_allLive {f : Context params → Bool} (hempty : f .empty = true) (s : State) :
    (∀ c, f (s.context c) = true) ↔ s.allLive fun g => f (.live g) = true := by
  constructor
  · intro h c g hg
    exact hg ▸ h c
  · intro h c
    cases hc : s.context c with
    | empty => exact hempty
    | live g => exact h c g hc

/-! ## The invariants of R31 -/

theorem Context.inv_lcg (st : LcgState) : (Context.live (p := params) (.lcg st)).inv = st.inc.getLsbD 0 := rfl

theorem csDraw_pos_le (st : CsState params.csN) : (csDraw params st).2.pos.toNat ≤ 16 := by
  rw [csDraw_pos, BitVec.toNat_add]
  exact (Nat.mod_le _ _).trans (csReady_pos_lt params st)

theorem mtDraw_idx_le (st : MtState params.mtN) : (mtDraw params st).2.idx.toNat ≤ 624 := by
  rw [mtDraw_idx, BitVec.toNat_add]
  exact (Nat.mod_le _ _).trans (mtReady_idx_lt params st)

/-- R31 item 2: seeding sets bit 0 of the increment and no draw changes it. Item 3: a draw starts from a position below
16. Item 4: a draw starts from an index below 624. -/
theorem keptByCores_inv : KeptByCores fun g => (Context.live g).inv = true where
  ofSeed k seed := by
    cases k with
    | rotateShift => rfl
    | lcgPermutation => simp [Generator.ofSeed, Context.inv, lcgSeed]
    | cipherStream => rfl
    | classicTwister => simp [Generator.ofSeed, Context.inv]
  draw32 g hg := by
    cases g with
    | rs st => rfl
    | lcg st =>
      show (Context.live (p := params) (.lcg (lcgDraw params st).2)).inv = true
      rwa [Context.inv_lcg, lcgDraw_inc]
    | cs st => exact decide_eq_true (csDraw_pos_le st)
    | mt st => exact decide_eq_true (mtDraw_idx_le st)
  jump _ _ := rfl

theorem State.inv_iff (s : State) :
    s.inv ↔ s.allLive (fun g => (Context.live g).inv = true) ∧ s.memInv :=
  and_congr_left' (forall_context_iff_allLive rfl s)

/-- R31 item 5: the mixer, the update and the jump each keep the four words from being all zero. -/
theorem keptByCores_rsNonzero : KeptByCores fun g => (Context.live g).rsNonzero = true where
  ofSeed k seed := by
    cases k with
    | rotateShift => exact bne_iff_ne.mpr (rsSeed_ne_zero seed)
    | lcgPermutation => rfl
    | cipherStream => rfl
    | classicTwister => rfl
  draw32 g hg := by
    cases g with
    | rs st => exact bne_iff_ne.mpr (mt rsUpdate_eq_zero (bne_iff_ne.mp hg))
    | lcg st => rfl
    | cs st => rfl
    | mt st => rfl
  jump st hst := bne_iff_ne.mpr (mt rsJump_eq_zero (bne_iff_ne.mp hst))

theorem State.rsNonzero_iff (s : State) :
    s.rsNonzero ↔ s.allLive fun g => (Context.live g).rsNonzero = true :=
  forall_context_iff_allLive rfl s

/-- Settles O45: the cores keep items 2 to 4 of R31, and a `FILL` writes only in range. -/
theorem stepKeepsInvariant : Obligations.StepKeepsInvariant := by
  intro s t hs h
  rw [State.inv_iff] at hs ⊢
  obtain ⟨hctx, hmem⟩ := hs
  exact ⟨step_keeps_allLive keptByCores_inv h hctx, step_keeps_memInv h hmem⟩

/-- Settles O46: no context is live and memory and the port are empty. -/
theorem resetHasInvariant : Obligations.ResetHasInvariant :=
  ⟨fun c => congrArg Context.inv (State.reset_context c), Memory.wf_reset, nofun, nofun⟩

/-- Settles O47: the cores keep item 5 of R31; for the jump this is the inverse of its polynomial. -/
theorem stepKeepsRotateShiftNonzero : Obligations.StepKeepsRotateShiftNonzero := by
  intro s t hs h
  rw [State.rsNonzero_iff] at hs ⊢
  exact step_keeps_allLive keptByCores_rsNonzero h hs

/-- Settles O48: no context is live. -/
theorem resetHasNoZeroRotateShift : Obligations.ResetHasNoZeroRotateShift :=
  fun c => congrArg Context.rsNonzero (State.reset_context c)

end Sys2Proof.Machine

namespace Sys2Proof.Machine

/-! # The buffer space (20_memory.md) -/

/-! ## Who writes memory, and where (R50, R55) -/

/-- Settles O51: in the one shape of a next state, only `FILL` comes with byte writes. -/
theorem onlyFillTouchesMemory : Obligations.OnlyFillTouchesMemory := by
  intro i s t hi h
  rcases exec_next_shape h with ⟨e, -, rfl⟩ | ⟨x, ws, v, rfl, hws⟩
  · simp
  · simp [hws hi]

/-- Byte writes in range leave the null buffer's byte (R55). -/
theorem MakesWrites.read_zero {s t : State} (h : MakesWrites s t) : t.mem.read 0 = s.mem.read 0 := by
  obtain ⟨ws, hm, -, hws⟩ := h
  rw [hm, Memory.read_writeCells_of_not_mem]
  exact fun w hw => Nat.ne_of_gt (hws w hw).1

/-- Settles O30: only a command writes, and its writes start at address 1. -/
theorem nullAddressIsNeverWritten : Obligations.NullAddressIsNeverWritten := by
  intro s t h
  rcases step_next h with rfl | ⟨rest, rfl⟩ | ⟨cmd, rest, i, hexec⟩ | ⟨cmd, rest, e, rfl⟩
  · rfl
  · rfl
  · exact (exec_makesWrites hexec).read_zero
  · rfl

/-! ## Consecutive byte writes (R52, R54, R58) -/

/-- The byte writes of `f 0, f 1, ..., f (n-1)` to `a, a+1, ..., a+n-1`, ascending. -/
def bufferCells (a n : Nat) (f : Nat → U8) : List Host.Cell := (List.range n).map fun i => (a + i, f i)

/-- `MemWrite(a, n, v)` is such a run of byte writes (R52). -/
theorem memWriteCells_eq_bufferCells (a n : Nat) (v : U64) : memWriteCells a n v = bufferCells a n (byteOf v) := rfl

theorem mem_bufferCells {a n : Nat} {f : Nat → U8} {x : Host.Cell} :
    x ∈ bufferCells a n f ↔ ∃ i < n, (a + i, f i) = x := by
  simp only [bufferCells, List.mem_map, List.mem_range]

theorem bufferCells_succ (a n : Nat) (f : Nat → U8) :
    bufferCells a (n + 1) f = bufferCells a n f ++ [(a + n, f n)] := by
  simp [bufferCells, List.range_succ]

theorem bufferCells_add (a n k : Nat) (f : Nat → U8) :
    bufferCells a (n + k) f = bufferCells a n f ++ bufferCells (a + n) k fun i => f (n + i) := by
  simp [bufferCells, List.range_add, Nat.add_assoc]

theorem bufferCells_congr {a n : Nat} {f g : Nat → U8} (h : ∀ i < n, f i = g i) :
    bufferCells a n f = bufferCells a n g :=
  List.map_congr_left fun i hi => by rw [h i (List.mem_range.mp hi)]

/-- Each address of the buffer reads the byte written to it. -/
theorem Memory.read_writeCells_bufferCells (m : Memory) (a : Nat) (f : Nat → U8) {i n : Nat} (hi : i < n) :
    (m.writeCells (bufferCells a n f)).read (a + i) = f i := by
  induction n with
  | zero => exact absurd hi (Nat.not_lt_zero i)
  | succ n ih =>
    rw [bufferCells_succ, Memory.writeCells_append]
    simp only [Memory.writeCells, Memory.read_write, Nat.add_left_cancel_iff]
    split
    · next e => rw [e]
    · next hne => exact ih (by omega)

/-- Each address outside the buffer reads as before. -/
theorem Memory.read_writeCells_bufferCells_of_outside (m : Memory) {a n x : Nat} (f : Nat → U8)
    (hx : x < a ∨ a + n ≤ x) : (m.writeCells (bufferCells a n f)).read x = m.read x := by
  refine Memory.read_writeCells_of_not_mem m _ x fun w hw => ?_
  obtain ⟨i, hi, rfl⟩ := mem_bufferCells.mp hw
  show a + i ≠ x
  omega

/-! ## The bytes of a `FILL` (R116) -/

/-- Byte `i` of the stream a Generator fills a buffer with: byte `i mod 8` of draw `i / 8` (R116). -/
def fillByte (g : Generator params) (i : Nat) : U8 := byteOf (nthDraw64 g (i / 8)) (i % 8)

/-- Byte `b` of a value by division (R52). -/
theorem byteOf_eq_ofNat (v : U64) (b : Nat) : byteOf v b = BitVec.ofNat 8 (v.toNat / 2 ^ (8 * b)) := by
  rw [byteOf, BitVec.extractLsb', Nat.shiftRight_eq_div_pow]

theorem fillByte_eq_ofNat (g : Generator params) (i : Nat) :
    fillByte g i = BitVec.ofNat 8 ((nthDraw64 g (i / 8)).toNat / 2 ^ (8 * (i % 8))) :=
  byteOf_eq_ofNat _ _

/-- The first eight bytes are those of the first draw. -/
theorem fillByte_of_lt (g : Generator params) {i : Nat} (hi : i < 8) : fillByte g i = byteOf (draw64 params g).1 i := by
  rw [fillByte, Nat.div_eq_of_lt hi, Nat.mod_eq_of_lt hi]
  rfl

/-- After eight bytes the stream is that of the Generator after one draw. -/
theorem fillByte_add_eight (g : Generator params) (i : Nat) :
    fillByte g (8 + i) = fillByte (draw64 params g).2 i := by
  rw [fillByte, Nat.add_mod_left, Nat.add_div_left i (by decide)]
  rfl

/-- The byte writes of at most one chunk are the first bytes of the stream. -/
theorem memWriteCells_draw64 (a : Nat) {n : Nat} (g : Generator params) (hn : n ≤ 8) :
    memWriteCells a n (draw64 params g).1 = bufferCells a n (fillByte g) :=
  bufferCells_congr fun _ hi => (fillByte_of_lt g (Nat.lt_of_lt_of_le hi hn)).symm

/-- The byte writes of a `FILL`, chunk by chunk, are its Generator's stream in one run. -/
theorem fillCells_eq_bufferCells (full a : Nat) {rem : Nat} (g : Generator params) (hrem : rem ≤ 8) :
    (fillCells params full rem a g).1 = bufferCells a (8 * full + rem) (fillByte g) := by
  induction full generalizing a g with
  | zero =>
    by_cases h : rem = 0
    · subst h
      rfl
    · rw [fillCells_zero _ _ _ _ h, memWriteCells_draw64 a g hrem, Nat.mul_zero, Nat.zero_add]
  | succ n ih =>
    have hlen : 8 * (n + 1) + rem = 8 + (8 * n + rem) := by omega
    rw [fillCells_succ, hlen, bufferCells_add, ih, memWriteCells_draw64 a g (Nat.le_refl 8)]
    simp only [fillByte_add_eight]

/-- The byte writes of a whole `FILL`: `len` bytes of the stream. -/
theorem fillCells_of_length (a len : Nat) (g : Generator params) :
    (fillCells params (len / 8) (len % 8) a g).1 = bufferCells a len (fillByte g) := by
  rw [fillCells_eq_bufferCells _ _ _ (Nat.le_of_lt (Nat.mod_lt len (by decide))), Nat.div_add_mod]

/-- A buffer that is not null, not of zero length, and ends within the address space passes the checks (R116). -/
theorem fillCheck_params_eq_none {addr len : U64} (ha : addr ≠ 0) (hl : len ≠ 0)
    (hr : addr.toNat + len.toNat ≤ 2 ^ 64) : fillCheck params addr len = none :=
  fillCheck_eq_none.mpr ⟨ha, hl, addr.isLt, hr⟩

/-- A `FILL` on a live context whose checks pass, carried out (R116). -/
theorem exec_fill_of_checked {c : CtxIndex} {addr len : U64} {g : Generator params} {s : State}
    (hg : s.context c = .live g) (hc : fillCheck params addr len = none) :
    exec (.fill c addr len) s = .next
      (((s.setContext c (.live (fillCells params (len.toNat / 8) (len.toNat % 8) addr.toNat g).2)).writeCells
        (bufferCells addr.toNat len.toNat (fillByte g))).respond .ok 0) := by
  rw [← fillCells_of_length]
  show withGenerator c s _ = _
  rw [withGenerator_of_live hg, hc]

/-- Settles O29: the byte writes are one run over the buffer, and reads after a run are known inside and outside it. -/
theorem fillMemoryReadsBack : Obligations.FillMemoryReadsBack := by
  intro c addr len g s t hg ha hl hr h
  rw [exec_fill_of_checked hg (fillCheck_params_eq_none ha hl hr)] at h
  cases h
  simp only [State.respond_mem, State.writeCells_mem, State.setContext_mem]
  refine ⟨fun i hi => ?_, fun a => Memory.read_writeCells_bufferCells_of_outside s.mem (fillByte g)⟩
  rw [Memory.read_writeCells_bufferCells s.mem addr.toNat (fillByte g) hi, fillByte_eq_ofNat]

/-! ## The canonical form is faithful (R50, U14) -/

/-- A byte other than the unlisted one is read only where it is listed. -/
theorem Memory.mem_of_read {m : Memory} {a : Nat} (h : m.read a ≠ Memory.unlisted) : (a, m.read a) ∈ m := by
  induction m with
  | nil => exact absurd rfl h
  | cons y rest ih =>
    rw [Memory.read] at h ⊢
    split at h
    · next e => simp [← e]
    · next e => simpa [e] using .inr (ih h)

/-- In a canonical memory each listed byte is what its address reads. -/
theorem Memory.read_of_mem {m : Memory} (hm : m.Pairwise fun x y => x.1 < y.1) {x : Host.Cell} (hx : x ∈ m) :
    m.read x.1 = x.2 := by
  induction m with
  | nil => cases hx
  | cons y rest ih =>
    obtain ⟨hy, hrest⟩ := List.pairwise_cons.mp hm
    rw [Memory.read]
    rcases List.mem_cons.mp hx with rfl | hx
    · exact if_pos rfl
    · rw [if_neg (Nat.ne_of_lt (hy x hx)), ih hrest hx]

/-- A canonical memory lists exactly the bytes it reads other than the unlisted one. -/
theorem Memory.wf.mem_iff {m : Memory} (hm : m.wf) (x : Host.Cell) :
    x ∈ m ↔ m.read x.1 = x.2 ∧ x.2 ≠ Memory.unlisted := by
  refine ⟨fun hx => ⟨Memory.read_of_mem hm.1 hx, hm.2 x hx⟩, fun ⟨hread, hne⟩ => ?_⟩
  have hlisted := Memory.mem_of_read (hread ▸ hne)
  rwa [hread] at hlisted

/-- Two canonical memories that read alike are the same list. -/
theorem Memory.wf.eq_of_read_eq {m m' : Memory} (hm : m.wf) (hm' : m'.wf) (h : ∀ a, m.read a = m'.read a) :
    m = m' := by
  have : Std.Irrefl fun x y : Host.Cell => x.1 < y.1 := ⟨fun x => Nat.lt_irrefl x.1⟩
  have : Std.Antisymm fun x y : Host.Cell => x.1 < y.1 := ⟨fun _ _ hxy hyx => absurd hxy (Nat.lt_asymm hyx)⟩
  exact hm.1.eq_of_mem_iff hm'.1 fun x => by rw [hm.mem_iff, hm'.mem_iff, h]

/-- The memory that holds the first `n` bytes of an assignment: those bytes, written to one that lists nothing. -/
def Memory.ofBytes (n : Nat) (f : Nat → U8) : Memory := Memory.writeCells [] (bufferCells 0 n f)

theorem Memory.ofBytes_wf (n : Nat) (f : Nat → U8) : (Memory.ofBytes n f).wf :=
  Memory.wf_writeCells ⟨List.Pairwise.nil, nofun⟩ _

theorem Memory.lt_of_mem_ofBytes {n : Nat} {f : Nat → U8} {x : Host.Cell} (h : x ∈ Memory.ofBytes n f) :
    x.1 < n := by
  rcases Memory.mem_writeCells h with h | h
  · obtain ⟨i, hi, rfl⟩ := mem_bufferCells.mp h
    simpa using hi
  · cases h

theorem Memory.read_ofBytes {n : Nat} {f : Nat → U8} (hf : ∀ a, n ≤ a → f a = Memory.unlisted) (a : Nat) :
    (Memory.ofBytes n f).read a = f a := by
  rcases Nat.lt_or_ge a n with ha | ha
  · simpa [Memory.ofBytes] using Memory.read_writeCells_bufferCells [] 0 f ha
  · rw [hf a ha]
    exact Memory.read_writeCells_bufferCells_of_outside [] f (.inr (by omega))

/-- Settles O31: writing the assignment's bytes gives the memory, and its reads determine a canonical list. -/
theorem memoryIsATotalMap : Obligations.MemoryIsATotalMap := fun f hf =>
  ⟨Memory.ofBytes (2 ^ params.aw) f,
    ⟨Memory.ofBytes_wf _ f, fun _ hx => Memory.lt_of_mem_ofBytes hx, Memory.read_ofBytes hf⟩,
    fun _ ⟨hwf, _, hread⟩ => hwf.eq_of_read_eq (Memory.ofBytes_wf _ f) fun a =>
      (hread a).trans (Memory.read_ofBytes hf a).symm⟩

end Sys2Proof.Machine

namespace Sys2Proof.Machine

/-! # The encoding of commands (30_encoding.md) -/

/-! ## The fields of a word (R70, R71) -/

theorem opcodeField_toNat (w : U32) : (opcodeField w).toNat = w.toNat / 2 ^ 24 := by
  simp only [opcodeField, BitVec.extractLsb'_toNat, Nat.shiftRight_eq_div_pow]
  omega

theorem ctxField_toNat (w : U32) : (ctxField w).toNat = w.toNat / 2 ^ 20 % 16 := by
  simp only [ctxField, BitVec.extractLsb'_toNat, Nat.shiftRight_eq_div_pow]

theorem kindField_toNat (w : U32) : (kindField w).toNat = w.toNat / 2 ^ 16 % 16 := by
  simp only [kindField, BitVec.extractLsb'_toNat, Nat.shiftRight_eq_div_pow]

theorem rsvField_toNat (w : U32) : (rsvField w).toNat = w.toNat % 2 ^ 16 := by
  simp only [rsvField, BitVec.extractLsb'_toNat, Nat.shiftRight_zero]

/-- Concatenation is place value. -/
theorem append_toNat_eq_add {n m : Nat} (x : BitVec n) (y : BitVec m) :
    (x ++ y).toNat = x.toNat * 2 ^ m + y.toNat := by
  rw [BitVec.toNat_append, ← Nat.shiftLeft_add_eq_or_of_lt y.isLt, Nat.shiftLeft_eq]

section
variable (op : U8) (c : CtxIndex) (k : BitVec 4)

theorem commandWord_toNat :
    (commandWord op c k).toNat = op.toNat * 2 ^ 24 + c.toNat * 2 ^ 20 + k.toNat * 2 ^ 16 := by
  simp only [commandWord, append_toNat_eq_add, BitVec.toNat_ofNat]
  omega

@[simp] theorem opcodeField_commandWord : opcodeField (commandWord op c k) = op := by
  apply BitVec.eq_of_toNat_eq
  rw [opcodeField_toNat, commandWord_toNat]
  omega

@[simp] theorem ctxField_commandWord : ctxField (commandWord op c k) = c := by
  apply BitVec.eq_of_toNat_eq
  rw [ctxField_toNat, commandWord_toNat]
  omega

@[simp] theorem kindField_commandWord : kindField (commandWord op c k) = k := by
  apply BitVec.eq_of_toNat_eq
  rw [kindField_toNat, commandWord_toNat]
  omega

@[simp] theorem rsvField_commandWord : rsvField (commandWord op c k) = 0 := by
  apply BitVec.eq_of_toNat_eq
  rw [rsvField_toNat, commandWord_toNat]
  change _ = 0
  omega

end

/-- A word with no reserved bit set is the command word of its fields. -/
theorem commandWord_fields {w : U32} (hrsv : rsvField w = 0) :
    commandWord (opcodeField w) (ctxField w) (kindField w) = w := by
  have hrsv : w.toNat % 2 ^ 16 = 0 := by rw [← rsvField_toNat, hrsv]; rfl
  apply BitVec.eq_of_toNat_eq
  rw [commandWord_toNat, opcodeField_toNat, ctxField_toNat, kindField_toNat]
  omega

/-- The mask of R74 leaves out the context field and nothing else. -/
theorem word_eq_of_masked_eq {v w : U32} (hmask : v &&& 0xFF0FFFFF = w &&& 0xFF0FFFFF)
    (hctx : ctxField v = ctxField w) : v = w := by
  have hmaskBit : ∀ i < 32, ¬ (20 ≤ i ∧ i < 24) → (0xFF0FFFFF : U32).getLsbD i = true := by decide
  apply BitVec.eq_of_getLsbD_eq
  intro i hi
  by_cases hfree : 20 ≤ i ∧ i < 24
  · have hbit := congrArg (fun x => x.getLsbD (i - 20)) hctx
    have hlt : i - 20 < 4 := by omega
    simpa [ctxField, hlt, Nat.add_sub_cancel' hfree.1] using hbit
  · have hbit := congrArg (fun x => x.getLsbD i) hmask
    simpa only [BitVec.getLsbD_and, hmaskBit i hi hfree, Bool.and_true] using hbit

/-! ## The two kinds of word that are no command, by their fields (R75, R78) -/

theorem illegalWord_iff_fields {w : U32} :
    illegalWord w ↔
      opcodeField w ∉ assignedOpcodes ∨ rsvField w ≠ 0 ∨ (opcodeField w ≠ 0x01 ∧ kindField w ≠ 0) := by
  have hassigned : opcodeField w ∈ assignedOpcodes ↔ (opcodeField w).toNat ∈ assignedOpcodes.map BitVec.toNat :=
    (List.mem_map_of_injective fun _ _ => BitVec.eq_of_toNat_eq).symm
  rw [hassigned, Ne, Ne, Ne, ← BitVec.toNat_inj, ← BitVec.toNat_inj, ← BitVec.toNat_inj, opcodeField_toNat,
    rsvField_toNat, kindField_toNat]
  rfl

theorem unknownKindWord_iff_fields {w : U32} :
    unknownKindWord w ↔ opcodeField w = 0x01 ∧ rsvField w = 0 ∧ 4 ≤ (kindField w).toNat := by
  rw [← BitVec.toNat_inj, ← BitVec.toNat_inj, opcodeField_toNat, rsvField_toNat, kindField_toNat]
  rfl

/-- Every word is of one of the two kinds, or is the command word of a command (R75). -/
theorem word_cases (w : U32) : illegalWord w ∨ unknownKindWord w ∨ ∃ i, (encode i).word = w := by
  rw [illegalWord_iff_fields, unknownKindWord_iff_fields]
  by_contra! h
  obtain ⟨⟨hop, hrsv, hkind⟩, hknown, hnone⟩ := h
  have hw := commandWord_fields hrsv
  by_cases hinit : opcodeField w = 0x01
  · have hcode : ∀ k : BitVec 4, k.toNat < 4 → k = 0 ∨ k = 1 ∨ k = 2 ∨ k = 3 := by decide
    rw [hinit] at hw
    rcases hcode _ (hknown hinit hrsv) with hk | hk | hk | hk <;> rw [hk] at hw
    · exact hnone (.initRs (ctxField w) 0) hw
    · exact hnone (.initLcg (ctxField w) 0) hw
    · exact hnone (.initCs (ctxField w) 0) hw
    · exact hnone (.initMt (ctxField w) 0) hw
  · rw [hkind hinit] at hw
    simp only [assignedOpcodes, List.mem_cons, List.not_mem_nil, or_false, hinit, false_or] at hop
    rcases hop with h | h | h | h | h | h | h | h <;> rw [h] at hw
    · exact hnone (.destroy (ctxField w)) hw
    · exact hnone (.reseed (ctxField w) 0) hw
    · exact hnone (.next32 (ctxField w)) hw
    · exact hnone (.next64 (ctxField w)) hw
    · exact hnone (.nextD (ctxField w)) hw
    · exact hnone (.nextS (ctxField w)) hw
    · exact hnone (.fill (ctxField w) 0 0) hw
    · exact hnone (.jump (ctxField w)) hw

/-! ## What the decoder answers, case by case (R75) -/

/-- The command with these arguments in place of those it uses (R72). -/
def withArgs (arg0 arg1 : U64) : Instr → Instr
  | .initRs c _ => .initRs c arg0
  | .initLcg c _ => .initLcg c arg0
  | .initCs c _ => .initCs c arg0
  | .initMt c _ => .initMt c arg0
  | .reseed c _ => .reseed c arg0
  | .fill c _ _ => .fill c arg0 arg1
  | i => i

theorem withArgs_encode (i : Instr) : withArgs (encode i).arg0 (encode i).arg1 i = i := by
  cases i <;> rfl

theorem withArgs_withArgs (a b a' b' : U64) (i : Instr) : withArgs a b (withArgs a' b' i) = withArgs a b i := by
  cases i <;> rfl

theorem withArgs_initOf (a b : U64) (k : Kind) (c : CtxIndex) (seed : U64) :
    withArgs a b (initOf k c seed) = initOf k c a := by
  cases k <;> rfl

theorem initOf_seed_inj {k : Kind} {c : CtxIndex} {a b : U64} (h : initOf k c a = initOf k c b) : a = b := by
  cases k <;> cases h <;> rfl

/-- The arguments are not in the command word. -/
theorem encode_withArgs_word (a b : U64) (i : Instr) : (encode (withArgs a b i)).word = (encode i).word := by
  cases i <;> rfl

theorem row_withArgs (a b : U64) (i : Instr) : (withArgs a b i).row = i.row := by
  cases i <;> rfl

/-- A command word that passes the three tests for an illegal word is decoded by its opcode. -/
theorem decode_commandWord {op : U8} {k : BitVec 4} (hop : op ∈ assignedOpcodes) (hk : op = 0x01 ∨ k = 0)
    (c : CtxIndex) (a b : U64) :
    decode ⟨commandWord op c k, a, b⟩ = if op = 0x01 then initOfKind c k a else commandOfOpcode op c a b := by
  have hkind : ¬ (op ≠ 0x01 ∧ k ≠ 0) := fun ⟨h1, h0⟩ => hk.elim h1 h0
  simp only [decode, opcodeField_commandWord, ctxField_commandWord, kindField_commandWord, rsvField_commandWord,
    List.contains_iff_mem.mpr hop, not_true_eq_false, ne_eq, if_false, if_neg hkind]

/-- Case (a): the word of a command decodes to it, with the packet's arguments. -/
theorem decode_of_encode_word {p : Packet} {i : Instr} (h : (encode i).word = p.word) :
    decode p = .command (withArgs p.arg0 p.arg1 i) := by
  obtain ⟨w, a, b⟩ := p
  cases h
  cases i <;> exact decode_commandWord (by decide) (by decide) _ _ _

/-- Case (b). -/
theorem decode_of_unknownKindWord {p : Packet} (h : unknownKindWord p.word) :
    decode p = .unknownKind (ctxField p.word) (kindField p.word) := by
  obtain ⟨hop, hrsv, hkind⟩ := unknownKindWord_iff_fields.mp h
  have hcode : ∀ k : BitVec 4, 4 ≤ k.toNat → k ≠ 0 ∧ k ≠ 1 ∧ k ≠ 2 ∧ k ≠ 3 := by decide
  obtain ⟨h0, h1, h2, h3⟩ := hcode _ hkind
  have hinit : decode p = initOfKind (ctxField p.word) (kindField p.word) p.arg0 := by
    simp [decode, hop, hrsv, assignedOpcodes]
  rw [hinit, initOfKind, if_neg h0, if_neg h1, if_neg h2, if_neg h3]

/-- Case (c). -/
theorem decode_of_illegalWord {p : Packet} (h : illegalWord p.word) : ∃ why, decode p = .illegal why := by
  unfold decode
  split
  · exact ⟨_, rfl⟩
  split
  · exact ⟨_, rfl⟩
  split
  · exact ⟨_, rfl⟩
  rename_i hop hrsv hkind
  rcases illegalWord_iff_fields.mp h with h | h | h
  · exact absurd (by simpa using hop) h
  · exact absurd h hrsv
  · exact absurd h hkind

/-- A packet decodes to a command exactly when it has the command's word, and the arguments the command uses. -/
theorem decode_eq_command_iff {p : Packet} {i : Instr} :
    decode p = .command i ↔ (encode i).word = p.word ∧ withArgs p.arg0 p.arg1 i = i := by
  constructor
  · intro h
    rcases word_cases p.word with hill | hunk | ⟨j, hj⟩
    · obtain ⟨why, hd⟩ := decode_of_illegalWord hill
      cases h.symm.trans hd
    · cases h.symm.trans (decode_of_unknownKindWord hunk)
    · cases h.symm.trans (decode_of_encode_word hj)
      exact ⟨(encode_withArgs_word ..).trans hj, withArgs_withArgs ..⟩
  · rintro ⟨hword, hargs⟩
    rw [decode_of_encode_word hword, hargs]

theorem decode_illegal_iff {p : Packet} : (∃ why, decode p = .illegal why) ↔ illegalWord p.word := by
  refine ⟨fun ⟨why, h⟩ => ?_, decode_of_illegalWord⟩
  rcases word_cases p.word with hill | hunk | ⟨i, hi⟩
  · exact hill
  · cases h.symm.trans (decode_of_unknownKindWord hunk)
  · cases h.symm.trans (decode_of_encode_word hi)

theorem decode_unknownKind_iff {p : Packet} :
    (∃ c k, decode p = .unknownKind c k) ↔ unknownKindWord p.word := by
  refine ⟨fun ⟨c, k, h⟩ => ?_, fun h => ⟨_, _, decode_of_unknownKindWord h⟩⟩
  rcases word_cases p.word with hill | hunk | ⟨i, hi⟩
  · obtain ⟨why, hd⟩ := decode_of_illegalWord hill
    cases h.symm.trans hd
  · exact hunk
  · cases h.symm.trans (decode_of_encode_word hi)

/-- Settles O1: an encoding has the word of its command and the arguments that the command uses. -/
theorem decodeEncodeRoundTrip : Obligations.DecodeEncodeRoundTrip :=
  fun i => decode_eq_command_iff.mpr ⟨rfl, withArgs_encode i⟩

/-- Settles O2: putting the packet's arguments into a decoded command changes nothing. -/
theorem encodeOfDecodedWord : Obligations.EncodeOfDecodedWord := by
  intro p i h
  obtain ⟨hword, hargs⟩ := decode_eq_command_iff.mp h
  refine ⟨hword, ?_, ?_, ?_⟩
  · rintro k c a rfl
    exact initOf_seed_inj (hargs.symm.trans (withArgs_initOf ..))
  · rintro c a rfl
    cases hargs
    rfl
  · rintro c a l rfl
    cases hargs
    exact ⟨rfl, rfl⟩

/-! ## The mask and match of a table row (R74) -/

theorem row_mask (i : Instr) : i.row.mask = 0xFF0FFFFF := by
  cases i <;> rfl

theorem row_onContext (d : CtxIndex) (i : Instr) : (onContext d i).row = i.row := by
  cases i <;> rfl

theorem ctx_onContext (d : CtxIndex) (i : Instr) : (onContext d i).ctx = d := by
  cases i <;> rfl

open Laws.EncodesItsRow in
/-- The twelve lemmas of `Laws/PerInstr.lean` as one. -/
theorem encodesItsRow : ∀ i, Laws.EncodesItsRow.Statement i
  | .initRs c seed => initRs c seed
  | .initLcg c seed => initLcg c seed
  | .initCs c seed => initCs c seed
  | .initMt c seed => initMt c seed
  | .destroy c => destroy c
  | .reseed c seed => reseed c seed
  | .next32 c => next32 c
  | .next64 c => next64 c
  | .nextD c => nextD c
  | .nextS c => nextS c
  | .fill c addr len => fill c addr len
  | .jump c => jump c

/-- A word that matches a command's row is that command's word on the context the word names. -/
theorem encode_onContext_word {w : U32} {i : Instr} (h : w &&& i.row.mask = i.row.pattern) :
    (encode (onContext (ctxField w) i)).word = w := by
  obtain ⟨hrow, hctx⟩ := encodesItsRow (onContext (ctxField w) i)
  rw [row_onContext, ← h, row_mask] at hrow
  rw [ctx_onContext] at hctx
  exact word_eq_of_masked_eq hrow hctx

/-- Settles O3: the encoding of a command matches its row, and on one context only one word does. -/
theorem decodesExactlyByMaskAndMatch : Obligations.DecodesExactlyByMaskAndMatch := by
  intro p i
  refine ⟨⟨?_, fun h => ?_⟩, fun h => ?_⟩
  · rintro ⟨j, hj, hrow⟩
    rw [← (decode_eq_command_iff.mp hj).1, ← hrow]
    exact (encodesItsRow j).1
  · exact ⟨_, decode_of_encode_word (encode_onContext_word h), (row_withArgs ..).trans (row_onContext ..)⟩
  · rw [← ctxField_toNat, ← (decode_eq_command_iff.mp h).1, (encodesItsRow i).2]

/-! ## The step on a word that is no command (R78, R104) -/

theorem step_of_illegal {s : State} {cmd : Command} {rest : List HostEvent} {why : Illegal}
    (he : s.events = .command cmd :: rest) (hd : decode cmd.packet = .illegal why) :
    step s = .next ((s.accept cmd rest).fail .eIllCmd) := by
  simp only [step, State.fetch, he, hd]

theorem step_of_unknownKind {s : State} {cmd : Command} {rest : List HostEvent} {c : CtxIndex} {k : BitVec 4}
    (he : s.events = .command cmd :: rest) (hd : decode cmd.packet = .unknownKind c k)
    (hduty : ¬ dutyBroken cmd.packet.arg0 cmd.timeIn) : step s = .next ((s.accept cmd rest).fail .eKind) := by
  simp only [step, State.fetch, he, hd, if_neg hduty]

/-- Settles O4: the decoder's case (c), and the step's answer to it. -/
theorem illegalWordAnswersEIllCmd : Obligations.IllegalWordAnswersEIllCmd := by
  intro s cmd rest he
  refine ⟨decode_illegal_iff, fun hw => ?_, rfl⟩
  obtain ⟨why, hd⟩ := decode_of_illegalWord hw
  exact step_of_illegal he hd

/-- Settles O5: the decoder's case (b), and the step's answer to it while the duty of R252 is kept. -/
theorem unknownKindAnswersEKind : Obligations.UnknownKindAnswersEKind := fun _ _ _ he =>
  ⟨decode_unknownKind_iff, fun hw hduty =>
    step_of_unknownKind he (decode_of_unknownKindWord hw) (not_and_or.mpr hduty)⟩

/-- Settles O6: each word is that of its command, which takes the arguments it uses. -/
theorem workedEncodingsDecode : Obligations.WorkedEncodingsDecode := by
  simp only [Obligations.WorkedEncodingsDecode, decode_eq_command_iff]
  decide

end Sys2Proof.Machine

namespace Sys2Proof.Machine

/-! # The facade commands (40_facade_commands.md) -/

/-! ## Contexts: one write after another, and the contexts that do not exist (R24) -/

theorem State.context_of_ge (s : State) {c : CtxIndex} (h : params.nctx ≤ c.toNat) : s.context c = .empty :=
  dif_neg (Nat.not_lt.mpr h)

/-- The last write to a context stands. -/
theorem State.setContext_setContext (s : State) (c : CtxIndex) (x y : Context params) :
    (s.setContext c x).setContext c y = s.setContext c y := by
  by_cases h : c.toNat < params.nctx
  · simp [State.setContext, h]
  · simp [State.setContext, h]

/-- A response and a write to a context stand in different fields. -/
theorem State.setContext_respond (s : State) (c : CtxIndex) (x : Context params) (st : Status) (r : U64) :
    (s.respond st r).setContext c x = (s.setContext c x).respond st r := by
  unfold State.setContext
  split <;> rfl

/-- A command that puts `x` into a context that exists, answers `OK` and does nothing else, field by field. -/
theorem State.setContext_respond_of_lt (s : State) {c : CtxIndex} (x : Context params) (r : U64)
    (h : c.toNat < params.nctx) :
    (s.setContext c x).respond .ok r = { s with ctx := s.ctx.set c.toNat x h, rsp := some ⟨.ok, r⟩ } := by
  rw [State.setContext_of_lt s c x h]
  rfl

/-! ## `INIT` of the four kinds, by kind (R104 to R108) -/

theorem exec_initOf (k : Kind) (c : CtxIndex) (seed : U64) (s : State) :
    exec (initOf k c seed) s = initContext k c seed s := by
  cases k <;> rfl

theorem initContext_of_broken {k : Kind} {c : CtxIndex} {seed : U64} {s : State}
    (h : dutyBroken seed s.timeIn) : initContext k c seed s = .refused .zeroSeedAndZeroTime :=
  if_pos h

theorem initContext_of_missing {k : Kind} {c : CtxIndex} {seed : U64} {s : State}
    (hd : ¬ dutyBroken seed s.timeIn) (hc : params.nctx ≤ c.toNat) :
    initContext k c seed s = .next (s.fail .eAlloc) := by
  rw [initContext, withSeedDuty_of_kept hd, if_pos hc, failed]

theorem initContext_of_live {k : Kind} {c : CtxIndex} {seed : U64} {s : State} {g : Generator params}
    (hd : ¬ dutyBroken seed s.timeIn) (hg : s.context c = .live g) :
    initContext k c seed s = .next (s.fail .eAlloc) := by
  rw [initContext, withSeedDuty_of_kept hd, if_neg (Nat.not_le.mpr (State.lt_of_context_live hg)), hg, failed]

theorem initContext_of_empty {k : Kind} {c : CtxIndex} {seed : U64} {s : State}
    (hd : ¬ dutyBroken seed s.timeIn) (hc : c.toNat < params.nctx) (he : s.context c = .empty) :
    initContext k c seed s = .next ((s.setContext c (.live (seededGenerator k seed s))).respond .ok 0) := by
  rw [initContext, withSeedDuty_of_kept hd, if_neg (Nat.not_le.mpr hc), he]

/-- Settles O15: checks 2 and 3 of R104. -/
theorem initOnTakenOrMissingSlotFails : Obligations.InitOnTakenOrMissingSlotFails := by
  intro k c seed s hduty hslot
  have hd : ¬ dutyBroken seed s.timeIn := not_and_or.mpr hduty
  rw [exec_initOf]
  rcases hslot with hc | ⟨g, hg⟩
  · exact initContext_of_missing hd hc
  · exact initContext_of_live hd hg

/-! ## What the seed functions make of the effective seed (R102, R105 to R108) -/

theorem seedEff_eq_ite (a t : U64) : seedEff a t = if a = 0 then t else a := by
  simp only [seedEff, ne_eq, ite_not]

/-- `INIT` on an empty context that exists, field by field, with the Generator as the seed function of its kind makes
it of the effective seed. -/
theorem exec_initOf_of_empty {k : Kind} {c : CtxIndex} {seed : U64} {s : State} (h : c.toNat < params.nctx)
    (he : s.context c = .empty) (hduty : seed ≠ 0 ∨ s.timeIn ≠ 0) :
    exec (initOf k c seed) s = .next { s with
      ctx := s.ctx.set c.toNat (.live (.ofSeed params k (if seed = 0 then s.timeIn else seed))) h
      rsp := some ⟨.ok, 0⟩ } := by
  rw [exec_initOf, initContext_of_empty (not_and_or.mpr hduty) h he, State.setContext_respond_of_lt _ _ _ h,
    seededGenerator, seedBits_params, seedEff_eq_ite]

/-- `SeedMix` with its running counter written out (R141, R142). -/
theorem rsSeed_eq (e : U64) :
    rsSeed params e =
      ⟨seedMixer (e + 0x9E3779B97F4A7C15), seedMixer (e + 0x9E3779B97F4A7C15 + 0x9E3779B97F4A7C15),
        seedMixer (e + 0x9E3779B97F4A7C15 + 0x9E3779B97F4A7C15 + 0x9E3779B97F4A7C15),
        seedMixer (e + 0x9E3779B97F4A7C15 + 0x9E3779B97F4A7C15 + 0x9E3779B97F4A7C15 + 0x9E3779B97F4A7C15)⟩ := rfl

/-- A counter that has run `n` times, once more. -/
theorem counter_succ (e g n : U64) : e + n * g + g = e + (n + 1) * g := by
  rw [BitVec.add_assoc, add_one_mul]

/-- Settles O11: `RsSeed` is `SeedMix` of the effective seed. -/
theorem initRsSeedsRotateShift : Obligations.InitRsSeedsRotateShift := by
  intro c seed s h he hduty e mix word
  have h1 (g : U64) : e + g = e + 1 * g := by rw [one_mul]
  have h2 (g : U64) : e + 1 * g + g = e + 2 * g := counter_succ e g 1
  have h3 (g : U64) : e + 2 * g + g = e + 3 * g := counter_succ e g 2
  have h4 (g : U64) : e + 3 * g + g = e + 4 * g := counter_succ e g 3
  have hseed : rsSeed params e = ⟨word 1, word 2, word 3, word 4⟩ := by
    rw [rsSeed_eq, h1, h2, h3, h4]
    rfl
  exact hseed ▸ exec_initOf_of_empty (k := .rotateShift) h he hduty

/-- An odd number by shift and by arithmetic (R162). -/
theorem shiftLeft_one_or_one (e : U64) : e <<< 1 ||| 1 = 2 * e + 1 := by
  have hdisjoint : e <<< 1 &&& 1 = 0 := by
    ext i hi
    cases i <;> simp
  rw [← BitVec.add_eq_or_of_and_eq_zero _ _ hdisjoint, BitVec.shiftLeft_eq_mul_twoPow, BitVec.mul_comm]
  rfl

theorem lcgInitStateDefault_eq (e inc : U64) : lcgInitStateDefault e inc = (inc + e) * 6364136223846793005 + inc := by
  simp only [lcgInitStateDefault, lcgMulDefault, zero_mul, zero_add]

/-- Settles O12: the increment is the odd number, and the state starts from 0 (R161). -/
theorem initLcgSeedsLcg : Obligations.InitLcgSeedsLcg := by
  intro c seed s h he hduty e inc
  have hseed : lcgSeed params e = ⟨(inc + e) * 6364136223846793005 + inc, inc⟩ := by
    simp only [lcgSeed, BitVec.setWidth_eq, shiftLeft_one_or_one, lcgInitStateDefault_eq]
    rfl
  exact hseed ▸ exec_initOf_of_empty (k := .lcgPermutation) h he hduty

/-- `CsInit` word by word (R201). -/
theorem getElem_csInitDefault (e : U64) {i : Nat} (hi : i < 16) :
    (csInitDefault e)[i] = if i % 2 = 0 then e.extractLsb' 0 32 else e.extractLsb' 32 32 := by
  interval_cases i <;> rfl

theorem lowHalf_toNat (e : U64) : (e.extractLsb' 0 32).toNat = e.toNat % 2 ^ 32 := by
  rw [BitVec.extractLsb'_toNat, Nat.shiftRight_zero]

theorem highHalf_toNat (e : U64) : (e.extractLsb' 32 32).toNat = e.toNat / 2 ^ 32 := by
  rw [BitVec.extractLsb'_toNat, Nat.shiftRight_eq_div_pow]
  omega

/-- Settles O13: the words are those of `CsInit`. -/
theorem initCsSeedsCipherStream : Obligations.InitCsSeedsCipherStream := by
  intro c seed s h he hduty e
  refine ⟨csInitDefault e, exec_initOf_of_empty (k := .cipherStream) h he hduty, fun i hi => ?_⟩
  rw [getElem_csInitDefault e hi, apply_ite BitVec.toNat, lowHalf_toNat, highHalf_toNat]

/-- The words of `MtSeed` are the seeding recurrence (R181). -/
theorem getElem_mtSeed (p : Config.Params) (seed : BitVec p.seedW) {i : Nat} (hi : i < p.mtN) :
    (mtSeed p seed).mt[i] = mtSeedWord p (seed.extractLsb' 0 32) i := by
  simp [mtSeed]

/-- Settles O14: the words are the recurrence of R181 from the low half of the effective seed. -/
theorem initMtSeedsTwister : Obligations.InitMtSeedsTwister := by
  intro c seed s h he hduty e
  refine ⟨(mtSeed params e).mt, exec_initOf_of_empty (k := .classicTwister) h he hduty, ?_, fun i hi => ?_⟩
  · rw [getElem_mtSeed params e (by decide), mtSeedWord, lowHalf_toNat]
  · rw [getElem_mtSeed params e hi, getElem_mtSeed params e (Nat.lt_of_succ_lt hi), mtSeedWord]
    rfl

/-! ## `DESTROY` and `RESEED` (R109, R115) -/

theorem exec_destroy_of_live {c : CtxIndex} {g : Generator params} {s : State} (hg : s.context c = .live g) :
    exec (.destroy c) s = .next ((s.setContext c .empty).respond .ok 0) :=
  withGenerator_of_live hg _

theorem exec_reseed_of_live {c : CtxIndex} {seed : U64} {g : Generator params} {s : State}
    (hd : ¬ dutyBroken seed s.timeIn) (hg : s.context c = .live g) :
    exec (.reseed c seed) s = .next ((s.setContext c (.live (seededGenerator g.kind seed s))).respond .ok 0) :=
  (withSeedDuty_of_kept hd _).trans (withGenerator_of_live hg _)

theorem exec_reseed_of_broken {c : CtxIndex} {seed : U64} {s : State} (h : dutyBroken seed s.timeIn) :
    exec (.reseed c seed) s = .refused .zeroSeedAndZeroTime :=
  if_pos h

/-- `INIT` does not see a response that is still on the port. -/
theorem initContext_respond {k : Kind} {c : CtxIndex} {seed r : U64} {s : State} {st : Status}
    (hd : ¬ dutyBroken seed s.timeIn) (hc : c.toNat < params.nctx) (he : s.context c = .empty) :
    initContext k c seed (s.respond st r) = initContext k c seed s := by
  rw [initContext_of_empty (s := s.respond st r) hd hc he, initContext_of_empty hd hc he, State.setContext_respond]
  rfl

/-- `INIT` on a context just emptied leaves what it would have put there at once. -/
theorem initContext_setContext_empty {k : Kind} {c : CtxIndex} {seed : U64} {s : State}
    (hd : ¬ dutyBroken seed s.timeIn) (hc : c.toNat < params.nctx) :
    initContext k c seed (s.setContext c .empty) =
      .next ((s.setContext c (.live (seededGenerator k seed s))).respond .ok 0) := by
  have hempty := State.context_setContext_self s c .empty hc
  rw [initContext_of_empty (by rwa [State.setContext_timeIn]) hc hempty, State.setContext_setContext,
    seededGenerator, seededGenerator, State.setContext_timeIn]

/-- Settles O17: the null-generator check finds the Generator, and the context is emptied. -/
theorem destroyEmptiesContext : Obligations.DestroyEmptiesContext := by
  intro c g s h hg
  rw [exec_destroy_of_live hg, State.setContext_respond_of_lt _ _ _ h]

/-- Settles O18: both commands put the same seeded Generator into the context. -/
theorem reseedKeepsKindAndRestarts : Obligations.ReseedKeepsKindAndRestarts := by
  intro c seed g s h hg hduty
  have hd : ¬ dutyBroken seed s.timeIn := not_and_or.mpr hduty
  refine ⟨seededGenerator g.kind seed s, ofSeed_kind .., ?_, ?_⟩
  · rw [exec_reseed_of_live hd hg, State.setContext_respond_of_lt _ _ _ h]
  · rw [exec_initOf, ← State.setContext_of_lt s c .empty h, initContext_setContext_empty hd h,
      State.setContext_respond_of_lt _ _ _ h]

/-- Settles O19: `INIT` meets the duty of R252 and an empty context, as `RESEED` meets the duty and its Generator. -/
theorem reseedEqualsDestroyThenInit : Obligations.ReseedEqualsDestroyThenInit := by
  intro c seed g s t hg h
  rw [exec_destroy_of_live hg] at h
  cases h
  rw [exec_initOf]
  by_cases hd : dutyBroken seed s.timeIn
  · rw [exec_reseed_of_broken hd, initContext_of_broken (by simpa using hd)]
  · have hc := State.lt_of_context_live hg
    have hempty := State.context_setContext_self s c .empty hc
    rw [exec_reseed_of_live hd hg, initContext_respond (by simpa using hd) hc hempty,
      initContext_setContext_empty hd hc]

/-! ## Commands that fail a check (R101, R116, R117) -/

/-- Settles O20: a context that does not exist is no Generator, as an empty one is. -/
theorem nullGeneratorAnswersENoGen : Obligations.NullGeneratorAnswersENoGen := by
  intro i s hk hwf hnull
  have he : s.context i.ctx = .empty := hnull.elim (State.context_of_ge s) id
  exact exec_of_context_empty hk hwf he

theorem exec_fill_of_check_fails {c : CtxIndex} {addr len : U64} {g : Generator params} {s : State} {e : Status}
    (hg : s.context c = .live g) (hc : fillCheck params addr len = some e) :
    exec (.fill c addr len) s = .next (s.fail e) := by
  show withGenerator c s _ = _
  rw [withGenerator_of_live hg, hc]
  rfl

/-- Settles O32: the three checks of R116 in their order. -/
theorem fillChecksItsBuffer : Obligations.FillChecksItsBuffer := by
  intro c addr len g s hg
  refine ⟨fun ha => exec_fill_of_check_fails hg ?_, fun ha hl => exec_fill_of_check_fails hg ?_,
    fun ha hl hr => exec_fill_of_check_fails hg ?_⟩
  · rw [fillCheck, if_pos ha]
  · rw [fillCheck, if_neg ha, if_pos hl]
  · rw [fillCheck, if_neg ha, if_neg hl, if_pos (.inr hr)]

/-- Settles O35: the arms of `JUMP` for the three other kinds. -/
theorem jumpIsRotateShiftOnly : Obligations.JumpIsRotateShiftOnly := by
  intro c s g hg hk
  show withGenerator c s _ = _
  rw [withGenerator_of_live hg]
  cases g with
  | rs st => exact absurd rfl hk
  | lcg st => rfl
  | cs st => rfl
  | mt st => rfl

/-! ## `FILL` whose checks pass (R116) -/

theorem afterDraws64_succ (g : Generator params) (n : Nat) :
    afterDraws64 g (n + 1) = afterDraws64 (draw64 params g).2 n := rfl

/-- A `FILL` makes one draw per whole chunk, and one more for the bytes that are left. -/
theorem fillCells_snd (full rem a : Nat) (g : Generator params) :
    (fillCells params full rem a g).2 = afterDraws64 g (full + if rem = 0 then 0 else 1) := by
  induction full generalizing a g with
  | zero =>
    by_cases h : rem = 0
    · simp [h, afterDraws64]
    · simp [fillCells_zero params rem a g h, h, afterDraws64]
  | succ n ih => rw [fillCells_succ, Nat.add_right_comm, afterDraws64_succ, ih]

/-- The draws of a whole `FILL`: `ceil(len/8)` of them. -/
theorem fillCells_snd_of_length (a len : Nat) (g : Generator params) :
    (fillCells params (len / 8) (len % 8) a g).2 = afterDraws64 g ((len + 7) / 8) := by
  have hceil : (len / 8 + if len % 8 = 0 then 0 else 1) = (len + 7) / 8 := by
    split <;> omega
  rw [fillCells_snd, hceil]

/-- Settles O28: the bytes are the Generator's stream, the draws are counted, and the update is read field by field. -/
theorem fillWritesTheDrawnBytes : Obligations.FillWritesTheDrawnBytes := by
  intro c addr len g s h hg ha hl hr ws
  have hws : bufferCells addr.toNat len.toNat (fillByte g) = ws :=
    List.map_congr_left fun i _ => by rw [fillByte_eq_ofNat]
  rw [exec_fill_of_checked hg (fillCheck_params_eq_none ha hl hr), fillCells_snd_of_length, hws,
    State.setContext_of_lt s c _ h]
  rfl

/-! ## Doubles (R112, R113, R114) -/

/-- The fraction field of `Binary64(k)` with the implicit bit, as a number: `k` shifted up to 53 bits. -/
theorem significand_eq {k : Nat} (hk : k ≠ 0) (hlt : k < 2 ^ 53) :
    Nat.log2 k ≤ 52 ∧ (k - 2 ^ Nat.log2 k) * 2 ^ (52 - Nat.log2 k) < 2 ^ 52 ∧
      2 ^ 52 + (k - 2 ^ Nat.log2 k) * 2 ^ (52 - Nat.log2 k) = k * 2 ^ (52 - Nat.log2 k) := by
  have htop : Nat.log2 k ≤ 52 := Nat.le_of_lt_succ ((Nat.log2_lt hk).mpr hlt)
  have hlow : 2 ^ Nat.log2 k ≤ k := Nat.log2_self_le hk
  have hhigh : k < 2 ^ (Nat.log2 k + 1) := Nat.lt_log2_self
  have hunit : 2 ^ Nat.log2 k * 2 ^ (52 - Nat.log2 k) = 2 ^ 52 := by
    rw [← Nat.pow_add, Nat.add_sub_cancel' htop]
  have hsum : 2 ^ 52 + (k - 2 ^ Nat.log2 k) * 2 ^ (52 - Nat.log2 k) = k * 2 ^ (52 - Nat.log2 k) := by
    rw [← hunit, ← Nat.add_mul, Nat.add_sub_cancel' hlow]
  have hbelow : k * 2 ^ (52 - Nat.log2 k) < 2 ^ (Nat.log2 k + 1) * 2 ^ (52 - Nat.log2 k) :=
    Nat.mul_lt_mul_of_pos_right hhigh (Nat.two_pow_pos _)
  rw [Nat.pow_succ, Nat.mul_right_comm, hunit] at hbelow
  exact ⟨htop, by omega, hsum⟩

/-- `Binary64(k)` for `k != 0` as a number: the exponent field in place, and the fraction below it. -/
theorem binary64_toNat {k : Nat} (hk : k ≠ 0) (hlt : k < 2 ^ 53) :
    (binary64 k).toNat = (970 + Nat.log2 k) * 2 ^ 52 + (k - 2 ^ Nat.log2 k) * 2 ^ (52 - Nat.log2 k) := by
  obtain ⟨htop, hfraction, -⟩ := significand_eq hk hlt
  have hexponent : (970 + Nat.log2 k) % 2 ^ 11 = 970 + Nat.log2 k := Nat.mod_eq_of_lt (by omega)
  simp only [binary64, if_neg hk, append_toNat_eq_add, BitVec.toNat_ofNat, Nat.shiftLeft_eq, hexponent,
    Nat.mod_eq_of_lt hfraction]
  omega

/-- The three fields of `Binary64(k)` for `k != 0`. -/
theorem binary64_fields {k : Nat} (hk : k ≠ 0) (hlt : k < 2 ^ 53) :
    (binary64 k).toNat / 2 ^ 63 = 0 ∧ (binary64 k).toNat / 2 ^ 52 % 2 ^ 11 = 970 + Nat.log2 k ∧
      (binary64 k).toNat % 2 ^ 52 = (k - 2 ^ Nat.log2 k) * 2 ^ (52 - Nat.log2 k) := by
  obtain ⟨htop, hfraction, -⟩ := significand_eq hk hlt
  rw [binary64_toNat hk hlt]
  omega

/-- Settles O25: the exponent and the shift of the significand add up to the scale of `2^1022`. -/
theorem binary64IsExact : Obligations.Binary64IsExact := by
  refine ⟨rfl, fun k hpos hlt => ?_⟩
  obtain ⟨htop, -, hsum⟩ := significand_eq hpos.ne' hlt
  obtain ⟨hsign, hexponent, hfraction⟩ := binary64_fields hpos.ne' hlt
  have hsplit : 1022 = 52 - Nat.log2 k + (970 + Nat.log2 k) := by omega
  simp only [hsign, hexponent, hfraction, hsum]
  refine ⟨trivial, by omega, by omega, ?_⟩
  rw [Nat.mul_assoc, hsplit, Nat.pow_add 2 (52 - Nat.log2 k)]

/-- The exponent field is at most that of the doubles from 1/2 to 1. -/
theorem binary64_toNat_lt {k : Nat} (hlt : k < 2 ^ 53) : (binary64 k).toNat < 1023 * 2 ^ 52 := by
  by_cases hk : k = 0
  · subst hk
    decide
  · obtain ⟨htop, hfraction, -⟩ := significand_eq hk hlt
    rw [binary64_toNat hk hlt]
    omega

theorem doubleOfDraw_toNat_lt (x : U64) : (doubleOfDraw x).toNat < 1023 * 2 ^ 52 := by
  have hx := x.isLt
  refine binary64_toNat_lt ?_
  rw [BitVec.toNat_ushiftRight, Nat.shiftRight_eq_div_pow]
  omega

/-- A draw of a double that answers a next state has failed, or responds with the double of one 64-bit draw (R112). -/
theorem drawDouble_rsp {c : CtxIndex} {s t : State} (h : drawDouble c s = .next t) :
    t.rsp = some ⟨.eNoGen, 0⟩ ∨ ∃ x, t.rsp = some ⟨.ok, doubleOfDraw x⟩ := by
  rcases withGenerator_next h with ⟨-, rfl⟩ | ⟨g, -, h⟩
  · exact .inl rfl
  · cases h
    exact .inr ⟨_, rfl⟩

/-- Settles O27: there is no kind whose `NEXTS` is its own. -/
theorem nextSIsNextD : Obligations.NextSIsNextD := fun _ _ => rfl

/-- Settles O26: the result is 0 or the double of a draw, which is below 1. -/
theorem doublesAreBelowOne : Obligations.DoublesAreBelowOne := by
  intro c s t r h hr
  rw [nextSIsNextD, or_self] at h
  rcases drawDouble_rsp h with hrsp | ⟨x, hrsp⟩ <;> cases hrsp.symm.trans hr
  · exact Nat.zero_le _
  · exact Nat.le_of_lt_succ (doubleOfDraw_toNat_lt x)

/-! ## Every command is answered, and a failure is all of its answer (R100, R120) -/

/-- What a step makes of a presented command: it executes it, or, for a word that is no command, fails (R75, R100). -/
theorem step_command_next {s t : State} {cmd : Command} {rest : List HostEvent}
    (he : s.events = .command cmd :: rest) (h : step s = .next t) :
    (∃ i, exec i (s.accept cmd rest) = .next t) ∨ ∃ e, t = (s.accept cmd rest).fail e := by
  cases hd : decode cmd.packet with
  | command i => exact .inl ⟨i, step_of_command he hd ▸ h⟩
  | unknownKind c k =>
    by_cases hduty : dutyBroken cmd.packet.arg0 cmd.timeIn
    · simp [step, State.fetch, he, hd, hduty] at h
    · exact .inr ⟨_, Host.Outcome.next.inj (h.symm.trans (step_of_unknownKind he hd hduty))⟩
  | illegal why => exact .inr ⟨_, Host.Outcome.next.inj (h.symm.trans (step_of_illegal he hd))⟩

/-- A failure response is all that a failing command changes. -/
theorem exec_next_of_not_ok {i : Instr} {s t : State} {r : Response} (h : exec i s = .next t) (hr : t.rsp = some r)
    (hstatus : r.status ≠ .ok) : t = { s with rsp := some r } ∧ r.result = 0 := by
  rcases exec_next_shape h with ⟨e, -, rfl⟩ | ⟨x, ws, v, rfl, -⟩ <;> cases hr
  · exact ⟨rfl, rfl⟩
  · exact absurd rfl hstatus

/-- Settles O49: of a presented word that is no command the step itself fails. -/
theorem failedCommandChangesNothing : Obligations.FailedCommandChangesNothing := by
  refine ⟨fun s t cmd rest r he h hr hstatus => ?_, fun i s t r => exec_next_of_not_ok⟩
  rcases step_command_next he h with ⟨i, hexec⟩ | ⟨e, rfl⟩
  · exact exec_next_of_not_ok hexec hr hstatus
  · cases hr
    exact ⟨rfl, rfl⟩

theorem wf_initOf_iff {k : Kind} {c : CtxIndex} {seed time : U64} :
    (initOf k c seed).wf time = true ↔ ¬ dutyBroken seed time := by
  cases k <;> exact wf_reseed_iff (c := c)

theorem initContext_answers {k : Kind} {c : CtxIndex} {seed : U64} {s : State} (hd : ¬ dutyBroken seed s.timeIn) :
    ∃ t, initContext k c seed s = .next t := by
  rcases Nat.lt_or_ge c.toNat params.nctx with hc | hc
  · cases hctx : s.context c with
    | empty => exact ⟨_, initContext_of_empty hd hc hctx⟩
    | live g => exact ⟨_, initContext_of_live hd hctx⟩
  · exact ⟨_, initContext_of_missing hd hc⟩

theorem withGenerator_answers {c : CtxIndex} {s : State} {f : Generator params → Result}
    (hf : ∀ g, ∃ t, f g = .next t) : ∃ t, withGenerator c s f = .next t := by
  cases hctx : s.context c with
  | empty => exact ⟨_, withGenerator_of_empty hctx f⟩
  | live g => exact withGenerator_of_live hctx f ▸ hf g

/-- A command that is well formed with `time_in` is answered (R100, R252). -/
theorem exec_answers {i : Instr} {s : State} (hwf : i.wf s.timeIn = true) : ∃ t, exec i s = .next t := by
  cases i with
  | initRs c seed => exact initContext_answers (wf_initOf_iff (k := .rotateShift) (c := c).mp hwf)
  | initLcg c seed => exact initContext_answers (wf_initOf_iff (k := .lcgPermutation) (c := c).mp hwf)
  | initCs c seed => exact initContext_answers (wf_initOf_iff (k := .cipherStream) (c := c).mp hwf)
  | initMt c seed => exact initContext_answers (wf_initOf_iff (k := .classicTwister) (c := c).mp hwf)
  | destroy c => exact withGenerator_answers fun _ => ⟨_, rfl⟩
  | reseed c seed =>
    obtain ⟨t, ht⟩ := withGenerator_answers (c := c) (s := s) fun g => ⟨_, rfl⟩
    exact ⟨t, (withSeedDuty_of_kept (wf_reseed_iff.mp hwf) _).trans ht⟩
  | next32 c => exact withGenerator_answers fun _ => ⟨_, rfl⟩
  | next64 c => exact withGenerator_answers fun _ => ⟨_, rfl⟩
  | nextD c => exact withGenerator_answers fun _ => ⟨_, rfl⟩
  | nextS c => exact withGenerator_answers fun _ => ⟨_, rfl⟩
  | fill c addr len =>
    refine withGenerator_answers fun g => ?_
    cases hc : fillCheck params addr len with
    | none => exact ⟨_, rfl⟩
    | some e => exact ⟨_, rfl⟩
  | jump c =>
    refine withGenerator_answers fun g => ?_
    cases g <;> exact ⟨_, rfl⟩

/-- The next state of a command shows a response, and the host's events are as they were. -/
theorem exec_next_responds {i : Instr} {s t : State} (h : exec i s = .next t) :
    (∃ r, t.rsp = some r) ∧ t.events = s.events := by
  rcases exec_next_shape h with ⟨e, -, rfl⟩ | ⟨x, ws, v, rfl, -⟩
  · exact ⟨⟨_, rfl⟩, rfl⟩
  · exact ⟨⟨_, rfl⟩, by simp⟩

/-- While the host keeps its duty with it, a presented command is answered, and its event taken. -/
theorem step_answers {s : State} {cmd : Command} {rest : List HostEvent} (he : s.events = .command cmd :: rest)
    (hduty : dutyKeptBy (.command cmd) = true) : ∃ t r, step s = .next t ∧ t.rsp = some r ∧ t.events = rest := by
  rw [dutyKeptBy] at hduty
  split at hduty
  · next i hd =>
    obtain ⟨t, ht⟩ := exec_answers (s := s.accept cmd rest) hduty
    obtain ⟨⟨r, hr⟩, hev⟩ := exec_next_responds ht
    exact ⟨t, r, (step_of_command he hd).trans ht, hr, hev⟩
  · next c k hd =>
    exact ⟨_, _, step_of_unknownKind he hd (by simpa [imp_iff_not_or] using hduty), rfl, rfl⟩
  · next why hd => exact ⟨_, _, step_of_illegal he hd, rfl, rfl⟩

/-- Settles O57: the duty kept with all events is kept with the first, which is answered, and with the rest. -/
theorem everyCommandIsAnswered : Obligations.EveryCommandIsAnswered := by
  intro s cmd rest hkept he
  rw [State.dutyKept, he, List.forall_mem_cons] at hkept
  obtain ⟨hfirst, hrest⟩ := hkept
  obtain ⟨t, r, hstep, hr, hev⟩ := step_answers he hfirst
  exact ⟨t, r, hstep, hr, hev, by rwa [State.dutyKept, hev]⟩

/-! ## What a command's effect depends on (R34, R102, R118) -/

/-- What a command does to the state it is executed in: refuse, fail, or put a context in place, make byte writes and
answer `OK`. -/
inductive Effect where
  | refuse (why : Refusal)
  | fail (e : Status)
  | put (x : Context params) (ws : List Host.Cell) (v : U64)

/-- The outcome of an effect on the context `c` of a state. -/
def Effect.apply (c : CtxIndex) (s : State) : Effect → Result
  | .refuse why => .refused why
  | .fail e => .next (s.fail e)
  | .put x ws v => .next (((s.setContext c x).writeCells ws).respond .ok v)

/-- An effect without byte writes. -/
theorem Effect.put_nil (c : CtxIndex) (s : State) (x : Context params) (v : U64) :
    Host.Outcome.next ((s.setContext c x).respond .ok v) = (Effect.put x [] v).apply c s := by
  rw [Effect.apply, State.writeCells_nil]

/-- Two outcomes, on the context `c` of `s` and on the context `d` of `s'`, are of one effect. -/
def SameEffect (c d : CtxIndex) (s s' : State) (r r' : Result) : Prop :=
  ∃ e : Effect, r = e.apply c s ∧ r' = e.apply d s'

/-- Two contexts, of one block or of two, that a command cannot tell apart: they hold the same, both exist or neither,
and a command that reads `time_in` finds the same sample. -/
structure Alike (i : Instr) (c d : CtxIndex) (s s' : State) : Prop where
  content : s.context c = s'.context d
  present : c.toNat < params.nctx ↔ d.toNat < params.nctx
  timeIn : readsTimeIn i = true → s.timeIn = s'.timeIn

section
variable {c d : CtxIndex} {s s' : State}

theorem sameEffect_fail (e : Status) : SameEffect c d s s' (failed s e) (failed s' e) := ⟨.fail e, rfl, rfl⟩

theorem sameEffect_put (x : Context params) (v : U64) :
    SameEffect c d s s' (.next ((s.setContext c x).respond .ok v)) (.next ((s'.setContext d x).respond .ok v)) :=
  ⟨.put x [] v, Effect.put_nil c s x v, Effect.put_nil d s' x v⟩

theorem sameEffect_of_withGenerator {f f' : Generator params → Result} (h : s.context c = s'.context d)
    (hf : ∀ g, SameEffect c d s s' (f g) (f' g)) :
    SameEffect c d s s' (withGenerator c s f) (withGenerator d s' f') := by
  cases hc : s.context c with
  | empty =>
    rw [withGenerator_of_empty hc, withGenerator_of_empty (h.symm.trans hc)]
    exact sameEffect_fail .eNoGen
  | live g =>
    rw [withGenerator_of_live hc, withGenerator_of_live (h.symm.trans hc)]
    exact hf g

theorem sameEffect_of_withSeedDuty {seed : U64} {r r' : Result} (h : seed = 0 → s.timeIn = s'.timeIn)
    (hr : SameEffect c d s s' r r') : SameEffect c d s s' (withSeedDuty seed s r) (withSeedDuty seed s' r') := by
  have hduty : dutyBroken seed s.timeIn ↔ dutyBroken seed s'.timeIn := and_congr_right fun h0 => by rw [h h0]
  by_cases hd : dutyBroken seed s.timeIn
  · exact ⟨.refuse .zeroSeedAndZeroTime, if_pos hd, if_pos (hduty.mp hd)⟩
  · rwa [withSeedDuty_of_kept hd, withSeedDuty_of_kept (mt hduty.mpr hd)]

/-- The sample is the effective seed only where the seed is 0 (R102). -/
theorem seededGenerator_congr {seed : U64} (k : Kind) (h : seed = 0 → s.timeIn = s'.timeIn) :
    seededGenerator k seed s = seededGenerator k seed s' := by
  have heff : seedEff seed s.timeIn = seedEff seed s'.timeIn := by
    rw [seedEff_eq_ite, seedEff_eq_ite]
    split
    · next h0 => exact h h0
    · rfl
  rw [seededGenerator, seededGenerator, heff]

theorem sameEffect_initContext {seed : U64} (k : Kind) (h : s.context c = s'.context d)
    (hpresent : c.toNat < params.nctx ↔ d.toNat < params.nctx) (htime : seed = 0 → s.timeIn = s'.timeIn) :
    SameEffect c d s s' (initContext k c seed s) (initContext k d seed s') := by
  refine sameEffect_of_withSeedDuty htime ?_
  by_cases hc : c.toNat < params.nctx
  · rw [if_neg (Nat.not_le.mpr hc), if_neg (Nat.not_le.mpr (hpresent.mp hc)), ← h, seededGenerator_congr k htime]
    cases s.context c with
    | empty => exact sameEffect_put _ 0
    | live g => exact sameEffect_fail .eAlloc
  · rw [if_pos (Nat.not_lt.mp hc), if_pos (Nat.not_lt.mp (mt hpresent.mpr hc))]
    exact sameEffect_fail .eAlloc

/-- A command has one effect on two contexts it cannot tell apart. -/
theorem exec_sameEffect {i : Instr} (h : Alike i c d s s') :
    SameEffect c d s s' (exec (onContext c i) s) (exec (onContext d i) s') := by
  obtain ⟨hctx, hpresent, htime⟩ := h
  cases i with
  | initRs _ seed => exact sameEffect_initContext .rotateShift hctx hpresent fun h0 => htime (beq_iff_eq.mpr h0)
  | initLcg _ seed => exact sameEffect_initContext .lcgPermutation hctx hpresent fun h0 => htime (beq_iff_eq.mpr h0)
  | initCs _ seed => exact sameEffect_initContext .cipherStream hctx hpresent fun h0 => htime (beq_iff_eq.mpr h0)
  | initMt _ seed => exact sameEffect_initContext .classicTwister hctx hpresent fun h0 => htime (beq_iff_eq.mpr h0)
  | destroy _ => exact sameEffect_of_withGenerator hctx fun _ => sameEffect_put _ _
  | reseed _ seed =>
    have hseed : seed = 0 → s.timeIn = s'.timeIn := fun h0 => htime (beq_iff_eq.mpr h0)
    refine sameEffect_of_withSeedDuty hseed (sameEffect_of_withGenerator hctx fun g => ?_)
    rw [seededGenerator_congr g.kind hseed]
    exact sameEffect_put _ _
  | next32 _ => exact sameEffect_of_withGenerator hctx fun _ => sameEffect_put _ _
  | next64 _ => exact sameEffect_of_withGenerator hctx fun _ => sameEffect_put _ _
  | nextD _ => exact sameEffect_of_withGenerator hctx fun _ => sameEffect_put _ _
  | nextS _ => exact sameEffect_of_withGenerator hctx fun _ => sameEffect_put _ _
  | fill _ addr len =>
    refine sameEffect_of_withGenerator hctx fun g => ?_
    cases fillCheck params addr len with
    | none => exact ⟨.put _ _ _, rfl, rfl⟩
    | some e => exact sameEffect_fail e
  | jump _ =>
    refine sameEffect_of_withGenerator hctx fun g => ?_
    cases g with
    | rs st => exact sameEffect_put _ _
    | lcg st => exact sameEffect_fail _
    | cs st => exact sameEffect_fail _
    | mt st => exact sameEffect_fail _

/-- The next states of one effect on two existing contexts show the same response, and the two contexts hold the same
again. -/
theorem SameEffect.cases {r r' : Result} (h : SameEffect c d s s' r r') (hc : c.toNat < params.nctx)
    (hd : d.toNat < params.nctx) (hctx : s.context c = s'.context d) :
    (∃ why, r = .refused why ∧ r' = .refused why) ∨
      ∃ t t', r = .next t ∧ r' = .next t' ∧ t.rsp = t'.rsp ∧ t.context c = t'.context d ∧
        t.timeIn = s.timeIn ∧ t'.timeIn = s'.timeIn := by
  obtain ⟨e, rfl, rfl⟩ := h
  cases e with
  | refuse why => exact .inl ⟨why, rfl, rfl⟩
  | fail e => exact .inr ⟨_, _, rfl, rfl, rfl, hctx, rfl, rfl⟩
  | put x ws v =>
    refine .inr ⟨_, _, rfl, rfl, rfl, ?_, by simp, by simp⟩
    simp [State.context_setContext_self, hc, hd]

end

/-- A command is itself on its own context. -/
theorem onContext_ctx (i : Instr) : onContext i.ctx i = i := by
  cases i <;> rfl

theorem Effect.apply_withTimeIn {e : Effect} {c : CtxIndex} {s t : State} (time : U64) (h : e.apply c s = .next t) :
    e.apply c { s with timeIn := time } = .next { t with timeIn := time } := by
  cases e with
  | refuse why => cases h
  | fail e => cases h; rfl
  | put x ws v =>
    have hset : State.setContext { s with timeIn := time } c x = { s.setContext c x with timeIn := time } := by
      unfold State.setContext
      split <;> rfl
    cases h
    rw [Effect.apply, hset]
    rfl

/-- Settles O54: a command that does not read `time_in` cannot tell two levels apart. -/
theorem timeInMattersOnlyForSeedZero : Obligations.TimeInMattersOnlyForSeedZero := by
  intro i s t time hreads h
  have halike : Alike i i.ctx i.ctx s { s with timeIn := time } := ⟨rfl, Iff.rfl, fun e => nomatch hreads.symm.trans e⟩
  obtain ⟨e, he, he'⟩ := exec_sameEffect halike
  rw [onContext_ctx] at he he'
  rw [he', Effect.apply_withTimeIn time (he.symm.trans h)]

theorem answers_cons_of_next {i : Instr} {rest : List Instr} {s t : State} (h : exec i s = .next t) :
    answers (i :: rest) s = (i.ctx, t.rsp) :: answers rest t := by
  simp only [answers, h]

theorem answers_cons_of_refused {i : Instr} {rest : List Instr} {s : State} {why : Refusal}
    (h : exec i s = .refused why) : answers (i :: rest) s = [] := by
  simp only [answers, h]

/-- Settles O55: each command of the list has one effect on the two contexts, which then are alike again. -/
theorem sameGeneratorSameAnswers : Obligations.SameGeneratorSameAnswers := by
  intro c d s₁ s₂ is hc hd hctx htime his
  induction is generalizing s₁ s₂ with
  | nil => rfl
  | cons i rest ih =>
    obtain ⟨hi, hrest⟩ := List.forall_mem_cons.mp his
    have heffect := exec_sameEffect (i := i) ⟨hctx, iff_of_true hc hd, fun _ => htime⟩
    rw [← hi, onContext_ctx, hi] at heffect
    rw [List.map_cons]
    rcases heffect.cases hc hd hctx with ⟨why, h₁, h₂⟩ | ⟨t₁, t₂, h₁, h₂, hrsp, hctx', htime₁, htime₂⟩
    · rw [answers_cons_of_refused h₁, answers_cons_of_refused h₂]
    · rw [answers_cons_of_next h₁, answers_cons_of_next h₂, List.map_cons, List.map_cons, hrsp,
        ih t₁ t₂ hctx' (by rw [htime₁, htime₂, htime]) hrest]

end Sys2Proof.Machine

namespace Sys2Proof.Machine

/-! # The rotate-shift core (41_rotate_shift.md) -/

/-! ## A draw command on a live context, for every kind (R110 to R112) -/

theorem exec_next32_of_live {c : CtxIndex} {g : Generator params} {s : State} (hg : s.context c = .live g) :
    exec (.next32 c) s =
      .next ((s.setContext c (.live (draw32 params g).2)).respond .ok ((draw32 params g).1.setWidth 64)) :=
  withGenerator_of_live hg _

theorem exec_next64_of_live {c : CtxIndex} {g : Generator params} {s : State} (hg : s.context c = .live g) :
    exec (.next64 c) s = .next ((s.setContext c (.live (draw64 params g).2)).respond .ok (draw64 params g).1) :=
  withGenerator_of_live hg _

theorem exec_nextD_of_live {c : CtxIndex} {g : Generator params} {s : State} (hg : s.context c = .live g) :
    exec (.nextD c) s =
      .next ((s.setContext c (.live (draw64 params g).2)).respond .ok (doubleOfDraw (draw64 params g).1)) :=
  withGenerator_of_live hg _

theorem doubleOfDraw_eq (x : U64) : doubleOfDraw x = binary64 (x.toNat / 2 ^ 11) := by
  rw [doubleOfDraw, BitVec.toNat_ushiftRight, Nat.shiftRight_eq_div_pow]

/-- A 64-bit draw cut to 32 bits and extended with zeros (R103, R110). -/
theorem setWidth_setWidth_eq_ofNat_mod (x : U64) :
    (x.setWidth 32).setWidth 64 = BitVec.ofNat 64 (x.toNat % 2 ^ 32) := by
  rw [← BitVec.toNat_setWidth, BitVec.ofNat_toNat]

/-! ## The step in closed form (R143) -/

/-- The rotate of R6 is the library's, for a count below the width. -/
theorem rotl64_eq_rotateLeft (x : U64) {k : Nat} (hk : k < 64) : rotl64 x k = x.rotateLeft k := by
  rw [BitVec.rotateLeft_def, Nat.mod_eq_of_lt hk, rotl64]

theorem rsOutput_eq (st : RsState) : rsOutput params st = (st.s0 + st.s3).rotateLeft 23 + st.s0 := by
  rw [rsOutput, rotl64_eq_rotateLeft _ (by decide)]

/-- The six assignments of the update, each in terms of the words before it. -/
theorem rsUpdate_eq (st : RsState) :
    rsUpdate params st =
      ⟨st.s0 ^^^ st.s1 ^^^ st.s3, st.s0 ^^^ st.s1 ^^^ st.s2, st.s0 ^^^ st.s2 ^^^ (st.s1 <<< 17),
        (st.s1 ^^^ st.s3).rotateLeft 45⟩ := by
  simp only [rsUpdate, RsState.mk.injEq]
  refine ⟨by ac_rfl, by ac_rfl, ?_, ?_⟩
  · rw [BitVec.xor_comm st.s2]
  · rw [rotl64_eq_rotateLeft _ (by decide), BitVec.xor_comm]

/-- Settles O21: each command makes one step, which is both native draws of the kind (R103). -/
theorem rotateShiftDraws : Obligations.RotateShiftDraws := by
  intro c s st h hst v st' after
  have hout : rsOutput params st = v := rsOutput_eq st
  have hdraw64 : draw64 params (.rs st) = (v, .rs st') := congrArg₂ (·, Generator.rs ·) hout (rsUpdate_eq st)
  have hdraw32 : draw32 params (.rs st) = (v.setWidth 32, .rs st') :=
    congrArg₂ (·.setWidth 32, Generator.rs ·) hout (rsUpdate_eq st)
  have hafter (r : U64) : (s.setContext c (.live (.rs st'))).respond .ok r = after r :=
    State.setContext_respond_of_lt s _ r h
  have hdouble : exec (.nextD c) s = .next (after (binary64 (v.toNat / 2 ^ 11))) := by
    rw [exec_nextD_of_live hst, hdraw64, hafter, doubleOfDraw_eq]
  refine ⟨?_, ?_, hdouble, (nextSIsNextD c s).trans hdouble⟩
  · rw [exec_next32_of_live hst, hdraw32, hafter, setWidth_setWidth_eq_ofNat_mod]
  · rw [exec_next64_of_live hst, hdraw64, hafter]

/-! ## The update is a linear bijection (R144) -/

theorem RsState.eq_of_xor_eq_zero {a b : RsState} (h : a.xor b = .zero) : a = b := by
  obtain ⟨h0, h1, h2, h3⟩ := RsState.mk.inj h
  rw [RsState.mk.injEq]
  exact ⟨BitVec.xor_eq_zero_iff.mp h0, BitVec.xor_eq_zero_iff.mp h1, BitVec.xor_eq_zero_iff.mp h2,
    BitVec.xor_eq_zero_iff.mp h3⟩

/-- A linear map is one-to-one when it sends nothing but zero to zero. -/
theorem rsUpdate_injective : Function.Injective (rsUpdate params) := fun a b h =>
  RsState.eq_of_xor_eq_zero (rsUpdate_eq_zero (by rw [rsUpdate_xor, h, RsState.xor_self]))

theorem finite_rsState : Finite RsState := by
  have : Finite U64 := .of_injective _ BitVec.toFin_injective
  refine .of_injective (fun st : RsState => (st.s0, st.s1, st.s2, st.s3)) fun a b h => ?_
  cases a
  cases b
  simpa using h

theorem rsUpdate_zero : rsUpdate params .zero = .zero := by decide

/-- Settles O36: one-to-one on finitely many states, so onto as well. -/
theorem rotateShiftUpdateIsLinearBijection : Obligations.RotateShiftUpdateIsLinearBijection := by
  have := finite_rsState
  exact ⟨rsUpdate_xor params, Finite.injective_iff_bijective.mp rsUpdate_injective,
    fun a => ⟨rsUpdate_eq_zero, fun h => h ▸ rsUpdate_zero⟩⟩

/-! ## `SeedMix` (R141) -/

/-- Word `i` of `SeedMix` is the mixer on the counter after `i + 1` additions. -/
theorem getElem_seedMixDefault (seed : U64) {i : Nat} (hi : i < 4) :
    (seedMixDefault seed)[i] = seedMixer (seed + BitVec.ofNat 64 (i + 1) * 0x9E3779B97F4A7C15) := by
  interval_cases i <;> simp only [seedMixDefault, BitVec.add_assoc] <;> rfl

/-- Settles O40: the mixer and the multiplication by the odd increment are one-to-one, so equal words have equal
indices. -/
theorem seedMixWordsAreDistinct : Obligations.SeedMixWordsAreDistinct := by
  intro seed i j hi hj h
  rw [getElem_seedMixDefault seed hi, getElem_seedMixDefault seed hj] at h
  have hcounter := add_left_cancel (seedMixer_injective h)
  have hindex : BitVec.ofNat 64 (i + 1) = BitVec.ofNat 64 (j + 1) :=
    mul_right_injective_of_inverse (d := 0xF1DE83E19937733D) (by decide) hcounter
  have hnat := congrArg BitVec.toNat hindex
  simp only [BitVec.toNat_ofNat] at hnat
  omega

end Sys2Proof.Machine

namespace Sys2Proof.Machine

/-! # The LCG-permutation core (42_lcg_permutation.md) -/

/-! ## The draw commands of a kind whose 64-bit draw is two 32-bit draws (R103) -/

theorem draw64_of_kind_ne_rotateShift {p : Config.Params} {g : Generator p} (h : g.kind ≠ .rotateShift) :
    draw64 p g = drawPair p g := by
  cases g with
  | rs st => exact absurd rfl h
  | lcg st => rfl
  | cs st => rfl
  | mt st => rfl

/-- Two draws in a row, the first in the high half (R103). -/
theorem drawPair_eq {p : Config.Params} {g g₁ g₂ : Generator p} {hi lo : U32} (h₁ : draw32 p g = (hi, g₁))
    (h₂ : draw32 p g₁ = (lo, g₂)) : drawPair p g = (hi ++ lo, g₂) := by
  simp only [drawPair, h₁, h₂]

/-- The four draw commands, from what the two native draws give. -/
theorem exec_draws_of_draw32 {c : CtxIndex} {s : State} {g g₁ g₂ : Generator params} {hi lo : U32}
    (hg : s.context c = .live g) (hkind : g.kind ≠ .rotateShift) (h₁ : draw32 params g = (hi, g₁))
    (h₂ : draw32 params g₁ = (lo, g₂)) :
    exec (.next32 c) s = .next ((s.setContext c (.live g₁)).respond .ok (0#32 ++ hi)) ∧
      exec (.next64 c) s = .next ((s.setContext c (.live g₂)).respond .ok (hi ++ lo)) ∧
      exec (.nextD c) s =
        .next ((s.setContext c (.live g₂)).respond .ok (binary64 ((hi ++ lo).toNat / 2 ^ 11))) ∧
      exec (.nextS c) s =
        .next ((s.setContext c (.live g₂)).respond .ok (binary64 ((hi ++ lo).toNat / 2 ^ 11))) := by
  have hpair : draw64 params g = (hi ++ lo, g₂) :=
    (draw64_of_kind_ne_rotateShift hkind).trans (drawPair_eq h₁ h₂)
  have hdouble := exec_nextD_of_live hg
  rw [hpair, doubleOfDraw_eq] at hdouble
  refine ⟨?_, ?_, hdouble, (nextSIsNextD c s).trans hdouble⟩
  · rw [exec_next32_of_live hg, h₁, BitVec.setWidth_eq_append (by decide)]
    rfl
  · rw [exec_next64_of_live hg, hpair]

/-! ## The draw in closed form (R163) -/

/-- The rotate of R6 is the library's, for a count below the width; count 0 is a case of its own in R6 alone. -/
theorem rotr32_eq_rotateRight (x : U32) {k : Nat} (hk : k < 32) : rotr32 x k = x.rotateRight k := by
  rw [BitVec.rotateRight_def, Nat.mod_eq_of_lt hk, rotr32]
  split
  case isTrue h0 =>
    subst h0
    simp
  case isFalse => rfl

/-- The rotate count is the three high bits of the state, so it is below the width. -/
theorem lcgOutput_eq (old : U64) :
    lcgOutput params old =
      ((((old >>> 18) ^^^ old) >>> 27).setWidth 32 : U32).rotateRight (old.toNat / 2 ^ 61) := by
  have hrot : old.toNat / 2 ^ 61 < 32 := by omega
  have hcount : (old >>> (64 - params.lcgRotBits)).toNat = old.toNat / 2 ^ 61 := by
    rw [BitVec.toNat_ushiftRight, Nat.shiftRight_eq_div_pow]
    rfl
  rw [lcgOutput, hcount, rotr32_eq_rotateRight _ hrot]

/-- Settles O22: a native draw puts out a function of the old state and then makes one step of the recurrence. -/
theorem lcgDraws : Obligations.LcgDraws := by
  intro c s st h hst out next v after
  have hdraw (x : U64) : draw32 params (.lcg ⟨x, st.inc⟩) = (out x, .lcg ⟨next x, st.inc⟩) :=
    congrArg (·, _) (lcgOutput_eq x)
  have hafter (x r : U64) : (s.setContext c (.live (.lcg ⟨x, st.inc⟩))).respond .ok r = after x r :=
    State.setContext_respond_of_lt s _ r h
  simpa only [hafter] using exec_draws_of_draw32 hst nofun (hdraw st.state) (hdraw (next st.state))

/-! ## The recurrence over many draws (R164) -/

/-- Beside a constant increment, a draw does to the state what the recurrence does. -/
theorem semiconj_lcgDraw (inc : U64) :
    Function.Semiconj (LcgState.mk · inc) (fun x => x * 6364136223846793005 + inc)
      (fun m => (lcgDraw params m).2) := fun _ => rfl

/-- Settles O44: what commutes with one draw commutes with `n`. -/
theorem lcgStateFollowsItsRecurrence : Obligations.LcgStateFollowsItsRecurrence := fun st n =>
  ((semiconj_lcgDraw st.inc).iterate_right n st.state).symm

end Sys2Proof.Machine

namespace Sys2Proof.Machine

/-! # The classic twister (43_classic_twister.md) -/

/-- A word of the array, read as the statements read it. -/
theorem toList_getD_eq_getElem {n k : Nat} (v : Vector U32 n) (hk : k < n) : v.toList.getD k 0 = v[k] := by
  rw [List.getD_eq_getElem _ _ (by simpa using hk), Vector.getElem_toList]

/-! ## The regeneration, iteration by iteration (R182) -/

section
variable (p : Config.Params)

/-- An index taken around the end is one of the array. -/
theorem mod_mtN_lt (j : Nat) : j % p.mtN < p.mtN := Nat.mod_lt j p.mtN_pos

/-- Iteration `k` writes word `k`, from three words of the array as it stands. -/
theorem getElem_mtTwistAt_self (mt : Vector U32 p.mtN) {k : Nat} (hk : k < p.mtN) :
    (mtTwistAt p mt k)[k] =
      mtTwistWord p mt[k] (mt[(k + 1) % p.mtN]'(mod_mtN_lt p _))
        (mt[(k + p.mtM) % p.mtN]'(mod_mtN_lt p _)) := by
  simp [mtTwistAt, Nat.mod_eq_of_lt hk]

/-- Iteration `k` leaves every word but word `k`. -/
theorem getElem_mtTwistAt_of_ne (mt : Vector U32 p.mtN) {k j : Nat} (hk : k < p.mtN) (hj : j < p.mtN) (hne : k ≠ j) :
    (mtTwistAt p mt k)[j] = mt[j] := by
  simp [mtTwistAt, Nat.mod_eq_of_lt hk, hne]

/-- A word stays as it is through the iterations with other indices. -/
theorem getElem_mtRegenLoop_eq_of_le (mt : Vector U32 p.mtN) {j m n : Nat} (hj : j < p.mtN) (hmn : m ≤ n)
    (hn : n ≤ p.mtN) (hout : j < m ∨ n ≤ j) : (mtRegenLoop p mt n)[j] = (mtRegenLoop p mt m)[j] := by
  induction n, hmn using Nat.le_induction with
  | base => rfl
  | succ n hmn ih =>
    rw [mtRegenLoop, getElem_mtTwistAt_of_ne p _ (by omega) hj (by omega), ih (by omega) (by omega)]

/-- The array before iteration `n`: the words below `n` are rewritten for good, the others are the old ones. -/
theorem getElem_mtRegenLoop (st : MtState p.mtN) {j n : Nat} (hj : j < p.mtN) (hn : n ≤ p.mtN) :
    (mtRegenLoop p st.mt n)[j] = if j < n then (mtRegen p st).mt[j] else st.mt[j] := by
  split
  case isTrue hlt => exact (getElem_mtRegenLoop_eq_of_le p st.mt hj hn le_rfl (.inl hlt)).symm
  case isFalse hge => exact getElem_mtRegenLoop_eq_of_le p st.mt hj n.zero_le hn (.inr (not_lt.mp hge))

/-- Every word of a regeneration, from the array before its own iteration. -/
theorem getElem_mtRegen (st : MtState p.mtN) {k : Nat} (hk : k < p.mtN) :
    (mtRegen p st).mt[k] =
      mtTwistWord p (mtRegenLoop p st.mt k)[k] ((mtRegenLoop p st.mt k)[(k + 1) % p.mtN]'(mod_mtN_lt p _))
        ((mtRegenLoop p st.mt k)[(k + p.mtM) % p.mtN]'(mod_mtN_lt p _)) := by
  calc (mtRegen p st).mt[k] = (mtRegenLoop p st.mt (k + 1))[k] := by
        rw [getElem_mtRegenLoop p st hk hk, if_pos k.lt_succ_self]
    _ = _ := getElem_mtTwistAt_self p _ hk

end

/-- Word `j` of the array before iteration `k`, read as the statements read it: a word below `k` is rewritten in this
pass. -/
def mtWordBefore (st : MtState params.mtN) (k j : Nat) : U32 :=
  if j < k then (mtRegen params st).mt.toList.getD j 0 else st.mt.toList.getD j 0

theorem getElem_mtRegenLoop_eq_mtWordBefore (st : MtState params.mtN) {j k : Nat} (hj : j < params.mtN)
    (hk : k ≤ params.mtN) : (mtRegenLoop params st.mt k)[j] = mtWordBefore st k j := by
  rw [getElem_mtRegenLoop params st hj hk, mtWordBefore, toList_getD_eq_getElem _ hj, toList_getD_eq_getElem _ hj]

/-- Every word of a regeneration: iteration `k` reads at `k`, and at `k + 1` and `k + 397` around the end (R182). -/
theorem mtRegen_getD (st : MtState params.mtN) {k : Nat} (hk : k < params.mtN) :
    (mtRegen params st).mt.toList.getD k 0 =
      mtTwistWord params (mtWordBefore st k k) (mtWordBefore st k ((k + 1) % 624))
        (mtWordBefore st k ((k + 397) % 624)) := by
  rw [toList_getD_eq_getElem _ hk, getElem_mtRegen params st hk]
  simp only [getElem_mtRegenLoop_eq_mtWordBefore st _ hk.le]

/-- The twist, with the low bit read as a remainder (R182). -/
theorem mtTwistWord_eq (a b m : U32) :
    mtTwistWord params a b m =
      let y := (a &&& 0x80000000) ||| (b &&& 0x7FFFFFFF)
      if y.toNat % 2 = 1 then m ^^^ (y >>> 1) ^^^ 0x9908B0DF else m ^^^ (y >>> 1) := by
  simp only [mtTwistWord, BitVec.getLsbD, Nat.testBit_zero, decide_eq_true_eq]

/-- Settles O41: of the three words that iteration `k` reads, those at an index below `k` are rewritten already. -/
theorem twisterRegenerationIsInPlace : Obligations.TwisterRegenerationIsInPlace := by
  intro st new old twist
  refine ⟨mtRegen_idx params st, fun k hk => ?_⟩
  have hself : mtWordBefore st k k = old.getD k 0 := if_neg (lt_irrefl k)
  have hnext : mtWordBefore st k ((k + 1) % 624) = if k = 623 then new.getD 0 0 else old.getD (k + 1) 0 := by
    split
    case isTrue h => rw [h]; rfl
    case isFalse h => rw [Nat.mod_eq_of_lt (by omega), mtWordBefore, if_neg (by omega)]
  have hfar : mtWordBefore st k ((k + 397) % 624) =
      if k < 227 then old.getD (k + 397) 0 else new.getD (k - 227) 0 := by
    split
    case isTrue h => rw [Nat.mod_eq_of_lt (by omega), mtWordBefore, if_neg (by omega)]
    case isFalse h => rw [show (k + 397) % 624 = k - 227 by omega, mtWordBefore, if_pos (by omega)]
  rw [← hself, ← hnext, ← hfar]
  exact (mtRegen_getD st hk).trans (mtTwistWord_eq _ _ _)

/-! ## The draw (R183) -/

theorem mtReady_eq_ite (st : MtState params.mtN) :
    mtReady params st = if st.idx.toNat < 624 then st else mtRegen params st := by
  split
  case isTrue h => exact mtReady_of_lt params h
  case isFalse h => exact mtReady_of_ge params (not_lt.mp h)

/-- The index after a draw. -/
theorem mtDraw_idx_toNat (st : MtState params.mtN) :
    (mtDraw params st).2.idx.toNat = if st.idx.toNat < 624 then st.idx.toNat + 1 else 1 := by
  rw [mtDraw_idx, mtReady_eq_ite]
  split
  case isTrue h =>
    rw [BitVec.toNat_add]
    exact Nat.mod_eq_of_lt (by simp; omega)
  case isFalse => rfl

/-- A native draw: the tempered word at the index, and the index advanced. -/
theorem draw32_mt (st : MtState params.mtN) :
    draw32 params (.mt st) =
      (mtTemper params ((mtReady params st).mt.toList.getD (mtReady params st).idx.toNat 0),
        .mt ⟨(mtReady params st).mt, (mtReady params st).idx + 1⟩) := by
  rw [toList_getD_eq_getElem _ (mtReady_idx_lt params st)]
  rfl

/-- Settles O24: two native draws in a row, each of which regenerates first when the index has reached 624. -/
theorem twisterDraws : Obligations.TwisterDraws := by
  intro c s st h hst temper ready out next v after
  have hdraw (m : MtState params.mtN) : draw32 params (.mt m) = (out m, .mt (next m)) := by
    rw [draw32_mt, mtReady_eq_ite]
    rfl
  have hafter (m : MtState params.mtN) (r : U64) : (s.setContext c (.live (.mt m))).respond .ok r = after m r :=
    State.setContext_respond_of_lt s _ r h
  simpa only [hafter] using exec_draws_of_draw32 hst nofun (hdraw st) (hdraw (next st))

/-! ## The index over many draws (R184) -/

/-- Settles O42: seeding leaves index 624, so the first draw regenerates, and so does every draw that finds index 624
again. -/
theorem twisterIndexCountsDraws : Obligations.TwisterIndexCountsDraws := by
  intro seed n hn
  induction n, hn using Nat.le_induction with
  | base => exact mtDraw_idx_toNat _
  | succ n hn ih =>
    rw [Function.iterate_succ_apply', mtDraw_idx_toNat, ih]
    split <;> omega

end Sys2Proof.Machine

namespace Sys2Proof.Machine

/-! # The cipher-stream core (44_cipher_stream.md) -/

/-! ## The draw in closed form (R203) -/

/-- The position a draw reads at: one that is used up starts over at 0. -/
theorem csReady_pos_toNat (st : CsState params.csN) :
    (csReady params st).pos.toNat = if st.pos.toNat < 16 then st.pos.toNat else 0 := by
  unfold csReady
  split
  case isTrue h => exact (if_neg (Nat.not_lt.mpr h)).symm
  case isFalse h => exact (if_pos (Nat.not_le.mp h)).symm

/-- The advanced position fits its 5 bits: a draw reads below 16. -/
theorem csDraw_pos_toNat (st : CsState params.csN) :
    (csDraw params st).2.pos.toNat = (csReady params st).pos.toNat + 1 := by
  have hlt : (csReady params st).pos.toNat < 16 := csReady_pos_lt params st
  rw [csDraw_pos, BitVec.toNat_add]
  exact Nat.mod_eq_of_lt (by simp; omega)

/-- The next draw reads one word further, around the end. -/
theorem csReady_csDraw_pos_toNat (st : CsState params.csN) :
    (csReady params (csDraw params st).2).pos.toNat = ((csReady params st).pos.toNat + 1) % 16 := by
  have hlt : (csReady params st).pos.toNat < 16 := csReady_pos_lt params st
  rw [csReady_pos_toNat, csDraw_pos_toNat]
  split <;> omega

/-- A draw puts out the word at the position it reads at. -/
theorem csDraw_fst (st : CsState params.csN) :
    (csDraw params st).1 = st.w.toList.getD (csReady params st).pos.toNat 0 := by
  rw [← csReady_w params st, toList_getD_eq_getElem _ (csReady_pos_lt params st)]
  rfl

/-- The state after a draw: the same words, and the position after the one read at. -/
theorem csDraw_snd (st : CsState params.csN) :
    (csDraw params st).2 = ⟨st.w, BitVec.ofNat 5 ((csReady params st).pos.toNat + 1)⟩ := by
  rw [← csDraw_pos_toNat, BitVec.ofNat_toNat, BitVec.setWidth_eq, ← csDraw_w params st]

/-- A native draw: the word at the position read at, and the position after it. -/
theorem draw32_cs (st : CsState params.csN) :
    draw32 params (.cs st) =
      (st.w.toList.getD (csReady params st).pos.toNat 0,
        .cs ⟨st.w, BitVec.ofNat 5 ((csReady params st).pos.toNat + 1)⟩) := by
  rw [← csDraw_fst, ← csDraw_snd]
  rfl

/-- Settles O23: two native draws in a row, the second of which reads one word further. -/
theorem cipherStreamDraws : Obligations.CipherStreamDraws := by
  intro c s st h hst a b v after
  have ha : (csReady params st).pos.toNat = a := csReady_pos_toNat st
  have hnext : (csDraw params st).2 = ⟨st.w, BitVec.ofNat 5 (a + 1)⟩ := by rw [csDraw_snd, ha]
  have hb : (csReady params ⟨st.w, BitVec.ofNat 5 (a + 1)⟩).pos.toNat = b := by
    have hlt : (csReady params st).pos.toNat < 16 := csReady_pos_lt params st
    rw [← hnext, csReady_csDraw_pos_toNat, ha]
    show (a + 1) % 16 = if a = 15 then 0 else a + 1
    split <;> omega
  have hfirst : draw32 params (.cs st) = (st.w.toList.getD a 0, .cs ⟨st.w, BitVec.ofNat 5 (a + 1)⟩) := by
    rw [draw32_cs, ha]
  have hsecond : draw32 params (.cs ⟨st.w, BitVec.ofNat 5 (a + 1)⟩) =
      (st.w.toList.getD b 0, .cs ⟨st.w, BitVec.ofNat 5 (b + 1)⟩) := by
    rw [draw32_cs, hb]
  have hafter (pos : Nat) (r : U64) :
      (s.setContext c (.live (.cs ⟨st.w, BitVec.ofNat 5 pos⟩))).respond .ok r = after pos r :=
    State.setContext_respond_of_lt s _ r h
  simpa only [hafter] using exec_draws_of_draw32 hst nofun hfirst hsecond

/-! ## The words and the position over many draws (R203) -/

/-- No number of draws changes the words. -/
theorem csDraw_iterate_w (st : CsState params.csN) (n : Nat) :
    ((fun m => (csDraw params m).2)^[n] st).w = st.w := by
  induction n with
  | zero => rfl
  | succ n ih => rw [Function.iterate_succ_apply', csDraw_w, ih]

/-- After `n` draws since seeding the next one reads at `n mod 16`. -/
theorem csReady_iterate_csSeed_pos_toNat (seed : U64) (n : Nat) :
    (csReady params ((fun m => (csDraw params m).2)^[n] (csSeed params seed))).pos.toNat = n % 16 := by
  induction n with
  | zero => exact csReady_pos_toNat _
  | succ n ih => rw [Function.iterate_succ_apply', csReady_csDraw_pos_toNat, ih, Nat.mod_add_mod]

/-- Settles O43: the draw reads the seeded words at the count of the draws before it, taken around the end. -/
theorem cipherStreamCyclesItsWords : Obligations.CipherStreamCyclesItsWords := by
  intro seed n _ fresh before
  have hpos : (csReady params before).pos.toNat = (n - 1) % 16 := csReady_iterate_csSeed_pos_toNat seed (n - 1)
  have hw : before.w = fresh.w := csDraw_iterate_w fresh (n - 1)
  refine ⟨?_, ?_, ?_⟩
  · rw [csDraw_fst, hw, hpos]
  · rw [csDraw_pos_toNat, hpos]
  · rw [csDraw_w, hw]

end Sys2Proof.Machine

namespace Sys2Proof.Machine

/-! # Jump-ahead (45_jump_ahead.md) -/

/-! ## The scan in closed form (R221) -/

/-- A scan over the bits `f 0`, `f 1`, …: the states `n` steps ahead, accumulated over the `n` with `f n` set. -/
theorem jumpScan_map_range (p : Config.Params) (n : Nat) (f : Nat → Bool) (acc st : RsState) :
    jumpScan p ((List.range n).map f) acc st =
      (List.range n).foldl (fun acc k => if f k then acc.xor ((rsUpdate p)^[k] st) else acc) acc := by
  induction n generalizing f acc st with
  | zero => rfl
  | succ n ih =>
    simp only [List.range_succ_eq_map, List.map_cons, List.map_map, jumpScan, rsStep_snd, ih, List.foldl_cons,
      List.foldl_map, Function.iterate_zero, id_eq, Function.iterate_succ_apply, Function.comp_apply]

/-- The scan order reads `JUMP_POLY` as one number, word 0 lowest. -/
theorem jumpBits_eq :
    jumpBits params = (List.range 256).map
      (0x39ABDC4529B1661CA9582618E03FC9AAD5A61266F0C9392C180EC6D33CFD0ABA : BitVec 256).getLsbD := by
  decide +kernel

theorem exec_jump_of_rs {c : CtxIndex} {s : State} {st : RsState} (hst : s.context c = .live (.rs st)) :
    exec (.jump c) s = .next ((s.setContext c (.live (.rs (rsJump params st)))).respond .ok 0) :=
  withGenerator_of_live hst _

/-- Settles O34: the scan in closed form, over the update in closed form. -/
theorem jumpAppliesTheJumpPolynomial : Obligations.JumpAppliesTheJumpPolynomial := by
  intro c s st h hst poly stepOnce jumped
  have hstep : stepOnce = rsUpdate params := funext fun x => (rsUpdate_eq x).symm
  have hjump : rsJump params st = jumped := by
    simp only [jumped, hstep, poly, rsJump, jumpBits_eq, jumpScan_map_range, RsState.zero]
  rw [exec_jump_of_rs hst, State.setContext_respond_of_lt _ _ _ h, hjump]

/-! ## Polynomials in the update, by Horner's rule -/

theorem RsState.xor_zero (a : RsState) : a.xor .zero = a := by
  simp [RsState.xor, RsState.zero]

/-- The accumulators at the start of a scan come out again. -/
theorem jumpScan_eq_xor_applyPoly (bits : List Bool) (acc st : RsState) :
    jumpScan params bits acc st = acc.xor (applyPoly bits st) := by
  have hacc : jumpScan params bits acc .zero = acc := by
    induction bits generalizing acc with
    | nil => rfl
    | cons b rest ih => cases b <;> simp [jumpScan, rsUpdate_zero, RsState.xor_zero, ih]
  calc jumpScan params bits acc st
      = jumpScan params bits (acc.xor .zero) (RsState.zero.xor st) := by rw [RsState.xor_zero, RsState.zero_xor]
    _ = acc.xor (applyPoly bits st) := by rw [jumpScan_xor, hacc, applyPoly]

/-- A polynomial in the update commutes with the update. -/
theorem commute_applyPoly_rsUpdate (bits : List Bool) : Function.Commute (applyPoly bits) (rsUpdate params) := by
  suffices h : ∀ acc st, jumpScan params bits (rsUpdate params acc) (rsUpdate params st) =
      rsUpdate params (jumpScan params bits acc st) from
    fun st => by simpa [applyPoly, rsUpdate_zero] using h .zero st
  induction bits with
  | nil => intro _ _; rfl
  | cons b rest ih =>
    intro acc st
    cases b <;> simp [jumpScan, ← rsUpdate_xor, ih]

/-- Settles O37: the jump is a polynomial in the update. -/
theorem jumpCommutesWithStep : Obligations.JumpCommutesWithStep :=
  commute_applyPoly_rsUpdate (jumpBits params)

/-- Horner's rule for the lowest coefficient. -/
theorem applyPoly_cons (b : Bool) (bits : List Bool) (st : RsState) :
    applyPoly (b :: bits) st = (if b then st else .zero).xor (rsUpdate params (applyPoly bits st)) := by
  rw [← commute_applyPoly_rsUpdate bits st, ← jumpScan_eq_xor_applyPoly]
  cases b <;> simp [applyPoly, jumpScan, RsState.zero_xor]

/-! ## Polynomials over GF(2) as numbers

Bit `n` of the number is the coefficient of the `n`-th power, so that `^^^` is the sum and doubling the product with the
variable. The kernel calculates with these numbers. -/

/-- The polynomial `q` in the update. -/
def evalPoly (q : Nat) (st : RsState) : RsState := applyPoly q.bits st

theorem evalPoly_zero (st : RsState) : evalPoly 0 st = .zero := by
  rw [evalPoly, Nat.zero_bits]
  rfl

theorem evalPoly_bit (b : Bool) (q : Nat) (st : RsState) :
    evalPoly (Nat.bit b q) st = (if b then st else .zero).xor (rsUpdate params (evalPoly q st)) := by
  by_cases hq : q = 0 → b = true
  · rw [evalPoly, Nat.bits_append_bit q b hq, applyPoly_cons, evalPoly]
  · obtain ⟨rfl, hb⟩ := Classical.not_imp.mp hq
    rw [Bool.not_eq_true] at hb
    subst hb
    show evalPoly 0 st = RsState.zero.xor (rsUpdate params (evalPoly 0 st))
    rw [evalPoly_zero, rsUpdate_zero, RsState.xor_zero]

theorem evalPoly_two_mul (q : Nat) (st : RsState) : evalPoly (2 * q) st = rsUpdate params (evalPoly q st) :=
  (evalPoly_bit false q st).trans (RsState.zero_xor _)

theorem evalPoly_xor (p q : Nat) (st : RsState) : evalPoly (p ^^^ q) st = (evalPoly p st).xor (evalPoly q st) := by
  induction p using Nat.binaryRec generalizing q with
  | zero => rw [Nat.zero_xor, evalPoly_zero, RsState.zero_xor]
  | bit b p ih =>
    cases q using Nat.bitCasesOn with
    | bit d q =>
      rw [Nat.xor_bit, evalPoly_bit, evalPoly_bit, evalPoly_bit, ih, rsUpdate_xor, RsState.xor_xor_xor_comm]
      congr 1
      cases b <;> cases d <;> simp [RsState.xor_self, RsState.xor_zero, RsState.zero_xor]

/-- The polynomial of a list of coefficients, as a number. -/
theorem applyPoly_eq_evalPoly (bits : List Bool) (st : RsState) :
    applyPoly bits st = evalPoly (bits.foldr Nat.bit 0) st := by
  induction bits with
  | nil => exact (evalPoly_zero st).symm
  | cons b rest ih => rw [applyPoly_cons, List.foldr_cons, evalPoly_bit, ih]

/-! ## The characteristic polynomial annihilates the update -/

/-- The characteristic polynomial of the update. -/
def charPoly : Nat := 0x10003C03C3F3ECB1904B4EDCF26259F850280002BCEFD1A5E9D116F2BB0F0F001

/-- What holds of the all-zero state and of every state with one bit set, and of the exclusive-or of any two states it
holds of, holds of every state. -/
theorem RsState.induction_on_bits {P : RsState → Prop} (zero : P .zero)
    (unit : ∀ i, ∀ l < 64, P (.single i (BitVec.twoPow 64 l))) (xor : ∀ a b, P a → P b → P (a.xor b))
    (st : RsState) : P st := by
  have hsingle (i : Fin 4) (x : U64) : P (.single i x) :=
    word_induction (V := fun y => P (.single i y)) (RsState.single_zero i ▸ zero) (unit i)
      (fun a b ha hb => RsState.single_xor i a b ▸ xor _ _ ha hb) x
  rw [RsState.eq_xor_singles st]
  exact xor _ _ (xor _ _ (hsingle 0 _) (hsingle 1 _)) (xor _ _ (hsingle 2 _) (hsingle 3 _))

/-- It sends each of the 256 states with one bit set to the all-zero state: 64 lanes for each of the four words. -/
theorem charPoly_unitLanes :
    ∀ i : Fin 4, (WideState.single i (unitLanes 64)).applyPoly charPoly.bits = ⟨0, 0, 0, 0⟩ := by
  decide +kernel

theorem evalPoly_charPoly (st : RsState) : evalPoly charPoly st = .zero := by
  induction st using RsState.induction_on_bits with
  | zero => exact applyPoly_zero _
  | unit i l hl =>
    have h := congrArg (WideState.lane l) (charPoly_unitLanes i)
    rwa [WideState.lane_applyPoly hl, WideState.lane_single, laneWord_unitLanes hl, WideState.lane_zero] at h
  | xor a b ha hb => rw [evalPoly, applyPoly_xor, ← evalPoly, ← evalPoly, ha, hb, RsState.xor_self]

/-! ## Arithmetic modulo the characteristic polynomial -/

/-- The product with the variable. -/
def mulVar (q : Nat) : Nat := if q < 2 ^ 255 then 2 * q else 2 * q ^^^ charPoly

/-- The product of the low `fuel` coefficients of `p` with `q`, by Horner's rule. -/
def mulPolyFuel (q : Nat) : Nat → Nat → Nat
  | 0, _ => 0
  | fuel + 1, p => if p = 0 then 0 else p % 2 * q ^^^ mulVar (mulPolyFuel q fuel (p / 2))

/-- The square; a number has no more bits than its value. -/
def squarePoly (p : Nat) : Nat := mulPolyFuel p p p

theorem evalPoly_mulVar (q : Nat) (st : RsState) : evalPoly (mulVar q) st = rsUpdate params (evalPoly q st) := by
  unfold mulVar
  split
  · exact evalPoly_two_mul q st
  · rw [evalPoly_xor, evalPoly_charPoly, RsState.xor_zero, evalPoly_two_mul]

theorem evalPoly_mulPolyFuel (q : Nat) {fuel p : Nat} (h : p ≤ fuel) (st : RsState) :
    evalPoly (mulPolyFuel q fuel p) st = evalPoly p (evalPoly q st) := by
  induction fuel generalizing p with
  | zero => rw [Nat.le_zero.mp h, mulPolyFuel, evalPoly_zero, evalPoly_zero]
  | succ fuel ih =>
    rw [mulPolyFuel]
    split
    case isTrue h0 => rw [h0, evalPoly_zero, evalPoly_zero]
    case isFalse h0 =>
      rw [evalPoly_xor, evalPoly_mulVar, ih (by omega)]
      cases p using Nat.bitCasesOn with
      | bit b p =>
        rw [evalPoly_bit, Nat.bit_div_two, Nat.bit_mod_two]
        cases b <;> simp [evalPoly_zero]

theorem evalPoly_squarePoly (p : Nat) (st : RsState) : evalPoly (squarePoly p) st = evalPoly p (evalPoly p st) :=
  evalPoly_mulPolyFuel p le_rfl st

/-- The variable squared `k` times over is `2^k` updates. -/
theorem evalPoly_iterate_squarePoly (k : Nat) (st : RsState) :
    evalPoly (squarePoly^[k] 2) st = (rsUpdate params)^[2 ^ k] st := by
  induction k generalizing st with
  | zero =>
    show evalPoly (2 * Nat.bit true 0) st = rsUpdate params st
    rw [evalPoly_two_mul, evalPoly_bit, evalPoly_zero, rsUpdate_zero, RsState.xor_zero, if_pos rfl]
  | succ k ih =>
    rw [Function.iterate_succ_apply', evalPoly_squarePoly, ih, ih, ← Function.iterate_add_apply, ← Nat.two_mul,
      ← Nat.pow_succ']

/-- Modulo the characteristic polynomial, `JUMP_POLY` is the variable to the power `2^128`. -/
theorem jumpBits_eq_iterate_squarePoly : (jumpBits params).foldr Nat.bit 0 = squarePoly^[128] 2 := by
  decide +kernel

/-- Settles O38: equal polynomials modulo one that annihilates the update make the same of every state. -/
theorem jumpAdvances2Pow128Steps : Obligations.JumpAdvances2Pow128Steps := by
  intro n st hn
  calc rsJump params st = evalPoly ((jumpBits params).foldr Nat.bit 0) st := applyPoly_eq_evalPoly _ st
    _ = (rsUpdate params)^[2 ^ 128] st := by rw [jumpBits_eq_iterate_squarePoly, evalPoly_iterate_squarePoly]
    _ = (rsUpdate params)^[n] st := by rw [hn]

/-- Settles O39: the inverse polynomial makes the jump one-to-one, and there are finitely many states. -/
theorem jumpIsInvertible : Obligations.JumpIsInvertible := by
  have := finite_rsState
  exact ⟨Finite.injective_iff_bijective.mp (Function.LeftInverse.injective unjump_jump),
    fun _ => mt rsJump_eq_zero⟩

end Sys2Proof.Machine

namespace Sys2Proof.Machine

/-! # Exceptions (60_exceptions.md) -/

/-! ## Which statuses a command answers (R242) -/

/-- The state shows a response whose status is in the list. -/
def State.answersIn (allowed : List Status) (t : State) : Prop := ∃ r, t.rsp = some r ∧ r.status ∈ allowed

section
variable {allowed : List Status} {c : CtxIndex} {s t : State}

theorem answersIn_respond {st : Status} (h : st ∈ allowed) (s : State) (r : U64) : (s.respond st r).answersIn allowed :=
  ⟨_, rfl, h⟩

theorem answersIn_of_failed {e : Status} (he : e ∈ allowed) (h : failed s e = .next t) : t.answersIn allowed := by
  cases h
  exact answersIn_respond he s 0

/-- Past the null-generator check a command answers what its operation on the Generator answers. -/
theorem answersIn_of_withGenerator {f : Generator params → Result} (h : withGenerator c s f = .next t)
    (hnull : .eNoGen ∈ allowed) (hf : ∀ g, f g = .next t → t.answersIn allowed) : t.answersIn allowed := by
  rcases withGenerator_next h with ⟨-, rfl⟩ | ⟨g, -, hg⟩
  · exact answersIn_respond hnull s 0
  · exact hf g hg

/-- A command on a Generator that cannot fail past the null-generator check (R101). -/
theorem answersIn_of_withGenerator_ok {u : Generator params → State} {v : Generator params → U64}
    (h : withGenerator c s (fun g => .next ((u g).respond .ok (v g))) = .next t) : t.answersIn [.ok, .eNoGen] :=
  answersIn_of_withGenerator h (by decide) fun g hg => by
    cases hg
    exact answersIn_respond (by decide) _ _

theorem answersIn_of_initContext {k : Kind} {seed : U64} (h : initContext k c seed s = .next t) :
    t.answersIn [.ok, .eAlloc] := by
  obtain ⟨-, rfl | ⟨-, -, rfl⟩⟩ := initContext_next h
  · exact answersIn_respond (by decide) _ _
  · exact answersIn_respond (by decide) _ _

end

/-- The buffer checks of `FILL` fail with one of their own three statuses (R116). -/
theorem fillCheck_mem {p : Config.Params} {addr len : U64} {e : Status} (h : fillCheck p addr len = some e) :
    e ∈ [Status.eNoBuf, .eZLen, .eRange] := by
  unfold fillCheck at h
  split at h
  · cases h; decide
  split at h
  · cases h; decide
  split at h
  · cases h; decide
  · cases h

theorem answersIn_of_execFill {c : CtxIndex} {addr len : U64} {s t : State} (h : execFill c addr len s = .next t) :
    t.answersIn [.ok, .eNoGen, .eNoBuf, .eZLen, .eRange] := by
  refine answersIn_of_withGenerator h (by decide) fun g hg => ?_
  dsimp only at hg
  split at hg
  · next e he => exact answersIn_of_failed (List.mem_cons_of_mem _ (List.mem_cons_of_mem _ (fillCheck_mem he))) hg
  · cases hg
    exact answersIn_respond (by decide) _ _

theorem answersIn_of_execJump {c : CtxIndex} {s t : State} (h : execJump c s = .next t) :
    t.answersIn [.ok, .eNoGen, .eUnsup] := by
  refine answersIn_of_withGenerator h (by decide) fun g hg => ?_
  cases g with
  | rs st =>
    cases hg
    exact answersIn_respond (by decide) _ _
  | lcg st => exact answersIn_of_failed (by decide) hg
  | cs st => exact answersIn_of_failed (by decide) hg
  | mt st => exact answersIn_of_failed (by decide) hg

/-- Settles O52: the table of R242, row by row. -/
theorem statusesArePossible : Obligations.StatusesArePossible := by
  intro i s t h
  cases i with
  | initRs c seed => exact answersIn_of_initContext h
  | initLcg c seed => exact answersIn_of_initContext h
  | initCs c seed => exact answersIn_of_initContext h
  | initMt c seed => exact answersIn_of_initContext h
  | destroy c => exact answersIn_of_withGenerator_ok h
  | reseed c seed => exact answersIn_of_withGenerator_ok (withSeedDuty_next h).2
  | next32 c => exact answersIn_of_withGenerator_ok h
  | next64 c => exact answersIn_of_withGenerator_ok h
  | nextD c => exact answersIn_of_withGenerator_ok h
  | nextS c => exact answersIn_of_withGenerator_ok h
  | fill c addr len => exact answersIn_of_execFill h
  | jump c => exact answersIn_of_execJump h

/-! ## What one context sees of an interleaving (R253) -/

/-- What is read back of a context just written, a missing one included (R24, R101). -/
theorem State.context_setContext_self_eq_ite (s : State) (c : CtxIndex) (x : Context params) :
    (s.setContext c x).context c = if c.toNat < params.nctx then x else .empty := by
  split
  · next hc => exact State.context_setContext_self s c x hc
  · next hc => exact State.context_of_ge _ (Nat.not_lt.mp hc)

/-- Two states that agree in all a command on context `c` can read (R34, R102). -/
structure AgreeOn (c : CtxIndex) (s s' : State) : Prop where
  content : s.context c = s'.context c
  timeIn : s.timeIn = s'.timeIn

/-- An effect on `c` answers alike in states that agree on `c`, and they still agree. -/
theorem Effect.apply_of_agreeOn {e : Effect} {c : CtxIndex} {s s' t : State} (hagree : AgreeOn c s s')
    (h : e.apply c s = .next t) : ∃ t', e.apply c s' = .next t' ∧ t'.rsp = t.rsp ∧ AgreeOn c t t' := by
  cases e with
  | refuse why => cases h
  | fail e =>
    cases h
    exact ⟨_, rfl, rfl, hagree.content, hagree.timeIn⟩
  | put x ws v =>
    cases h
    exact ⟨_, rfl, rfl, by simp [State.context_setContext_self_eq_ite], by simpa using hagree.timeIn⟩

/-- A command on `c` answers alike in states that agree on `c`, and they still agree. -/
theorem exec_of_agreeOn {i : Instr} {s s' t : State} (hagree : AgreeOn i.ctx s s') (h : exec i s = .next t) :
    ∃ t', exec i s' = .next t' ∧ t'.rsp = t.rsp ∧ AgreeOn i.ctx t t' := by
  obtain ⟨e, he, he'⟩ := exec_sameEffect (i := i) ⟨hagree.content, Iff.rfl, fun _ => hagree.timeIn⟩
  rw [onContext_ctx] at he he'
  rw [he']
  exact Effect.apply_of_agreeOn hagree (he.symm.trans h)

/-- A command on another context is not seen from `c`. -/
theorem agreeOn_exec_of_ne {c : CtxIndex} {i : Instr} {s s' t : State} (hagree : AgreeOn c s s') (hne : i.ctx ≠ c)
    (h : exec i s = .next t) : AgreeOn c t s' := by
  obtain ⟨hctx, -, htime⟩ := otherContextsUnchanged i s t c h
  exact ⟨(hctx hne.symm).trans hagree.content, htime.trans hagree.timeIn⟩

/-- The interleaving and the run of `c`'s commands alone stay in agreement on `c`, from any two states that agree. -/
theorem filter_answers_of_agreeOn {c : CtxIndex} {s s' : State} (is : List Instr)
    (hwf : ∀ i ∈ is, i.wf s.timeIn = true) (hagree : AgreeOn c s s') :
    (answers is s).filter (fun x => x.1 = c) = answers (is.filter fun i => i.ctx = c) s' := by
  induction is generalizing s s' with
  | nil => rfl
  | cons i rest ih =>
    obtain ⟨hi, hrest⟩ := List.forall_mem_cons.mp hwf
    obtain ⟨t, ht⟩ := exec_answers hi
    obtain ⟨-, -, htime⟩ := otherContextsUnchanged i s t c ht
    rw [← htime] at hrest
    rw [answers_cons_of_next ht]
    by_cases hc : i.ctx = c
    · subst hc
      obtain ⟨t', ht', hrsp, hagree'⟩ := exec_of_agreeOn hagree ht
      rw [List.filter_cons_of_pos (by simp), List.filter_cons_of_pos (by simp), answers_cons_of_next ht', hrsp,
        ih hrest hagree']
    · rw [List.filter_cons_of_neg (by simpa using hc), List.filter_cons_of_neg (by simpa using hc),
        ih hrest (agreeOn_exec_of_ne hagree hc ht)]

/-- Settles O56: a state agrees with itself. -/
theorem interleavingIsInvisible : Obligations.InterleavingIsInvisible :=
  fun _ _ is hwf => filter_answers_of_agreeOn is hwf ⟨rfl, rfl⟩

/-! ## The idle block, and the host's duty broken (R246, R252, R254) -/

/-- Settles O9: with no event to fetch, the step is done where it is. -/
theorem idleStepChangesNothing : Obligations.IdleStepChangesNothing := by
  intro s he
  simp only [step, State.fetch, he]

theorem step_of_unknownKind_broken {s : State} {cmd : Command} {rest : List HostEvent} {c : CtxIndex} {k : BitVec 4}
    (he : s.events = .command cmd :: rest) (hd : decode cmd.packet = .unknownKind c k)
    (hduty : dutyBroken cmd.packet.arg0 cmd.timeIn) : step s = .refused .zeroSeedAndZeroTime := by
  simp only [step, State.fetch, he, hd, if_pos hduty]

/-- Settles O16: each of the three forms asks for the duty before it makes any other check. -/
theorem zeroSeedAndZeroTimeIsRefused : Obligations.ZeroSeedAndZeroTimeIsRefused := by
  refine ⟨fun c s ht => ⟨fun k => ?_, exec_reseed_of_broken ⟨rfl, ht⟩⟩, fun s cmd rest he hw harg ht => ?_⟩
  · rw [exec_initOf, initContext_of_broken ⟨rfl, ht⟩]
  · exact step_of_unknownKind_broken he (decode_of_unknownKindWord hw) ⟨harg, ht⟩

end Sys2Proof.Machine

namespace Sys2Proof.Machine

/-! # Reset and hazards (70_reset_and_hazards.md) -/

/-! ## The reset event (R35, R270) -/

theorem step_of_reset {s : State} {rest : List HostEvent} (he : s.events = .reset :: rest) :
    step s = .next { s with events := rest }.resetEvent := by
  simp only [step, State.fetch, he]

/-- Settles O8: field by field, what `State.resetEvent` leaves. -/
theorem resetEventEmptiesContexts : Obligations.ResetEventEmptiesContexts := fun _ _ he =>
  ⟨_, step_of_reset he, State.resetEvent_context _, rfl, rfl, rfl, rfl, rfl⟩

/-! ## The life cycle of a context (R273) -/

/-- A command on a Generator that puts one of the same kind in its place, or fails, keeps the kind of its context: an
empty one stays empty (R101). -/
theorem kind_of_withGenerator {c : CtxIndex} {s t : State} {f : Generator params → Result}
    (h : withGenerator c s f = .next t)
    (hf : ∀ g, s.context c = .live g → f g = .next t → (t.context c).kind = some g.kind) :
    (t.context c).kind = (s.context c).kind := by
  rcases withGenerator_next h with ⟨-, rfl⟩ | ⟨g, hg, hout⟩
  · rfl
  · rw [hf g hg hout, hg, Context.kind]

/-- A Generator put into a context that exists gives the context its kind. -/
theorem State.kind_context_setContext_live (s : State) {c : CtxIndex} (g : Generator params)
    (hc : c.toNat < params.nctx) :
    ((s.setContext c (.live g)).context c).kind = some g.kind := by
  rw [State.context_setContext_self s c _ hc, Context.kind]

/-- A command that puts a Generator of the same kind into a live context and responds. -/
theorem kind_of_respond {c : CtxIndex} {s t : State} {g g' : Generator params} {v : U64} (hg : s.context c = .live g)
    (hkind : g'.kind = g.kind)
    (h : Host.Outcome.next ((s.setContext c (.live g')).respond .ok v) = (.next t : Result)) :
    (t.context c).kind = some g.kind := by
  cases h
  rw [State.respond_context, State.kind_context_setContext_live s g' (State.lt_of_context_live hg), hkind]

theorem kind_of_failed {c : CtxIndex} {s t : State} {g : Generator params} {e : Status} (hg : s.context c = .live g)
    (h : failed s e = .next t) : (t.context c).kind = some g.kind := by
  cases h
  rw [State.fail_context, hg, Context.kind]

/-- The jump replaces one rotate-shift payload by another (R117). -/
theorem kind_rs_eq_kind_rs (st st' : RsState) :
    (Generator.rs (p := params) st).kind = (Generator.rs (p := params) st').kind := rfl

/-- Every command but `INIT` and `DESTROY` keeps the kind of its context, and an empty context empty. -/
theorem exec_keeps_kind {i : Instr} {s t : State} (hinit : initKind i = none) (hdestroy : i ≠ .destroy i.ctx)
    (h : exec i s = .next t) : (t.context i.ctx).kind = (s.context i.ctx).kind := by
  cases i with
  | initRs c seed => cases hinit
  | initLcg c seed => cases hinit
  | initCs c seed => cases hinit
  | initMt c seed => cases hinit
  | destroy c => exact absurd rfl hdestroy
  | reseed c seed =>
    exact kind_of_withGenerator (withSeedDuty_next h).2 fun g hg => kind_of_respond hg (ofSeed_kind ..)
  | next32 c => exact kind_of_withGenerator h fun g hg => kind_of_respond hg (draw32_kind params g)
  | next64 c => exact kind_of_withGenerator h fun g hg => kind_of_respond hg (draw64_kind params g)
  | nextD c => exact kind_of_withGenerator h fun g hg => kind_of_respond hg (draw64_kind params g)
  | nextS c => exact kind_of_withGenerator h fun g hg => kind_of_respond hg (draw64_kind params g)
  | fill c addr len =>
    show (t.context c).kind = (s.context c).kind
    rcases execFill_next h with ⟨e, rfl⟩ | ⟨g, hg, -, rfl⟩
    · rfl
    · rw [State.respond_context, State.writeCells_context,
        State.kind_context_setContext_live s _ (State.lt_of_context_live hg), fillCells_kind, hg, Context.kind]
  | jump c =>
    refine kind_of_withGenerator h fun g hg hout => ?_
    cases g with
    | rs st => exact kind_of_respond hg (kind_rs_eq_kind_rs _ st) hout
    | lcg st => exact kind_of_failed hg hout
    | cs st => exact kind_of_failed hg hout
    | mt st => exact kind_of_failed hg hout

/-- `DESTROY` leaves its context empty, whatever it held (R101, R109). -/
theorem context_of_destroy {c : CtxIndex} {s t : State} (h : exec (.destroy c) s = .next t) :
    t.context c = .empty := by
  rcases withGenerator_next h with ⟨he, rfl⟩ | ⟨g, hg, hout⟩
  · exact he
  · cases hout
    exact State.context_setContext_self s c .empty (State.lt_of_context_live hg)

/-- `INIT` gives an empty context its kind, where the context exists (R104). -/
theorem kind_of_initContext_of_empty {k : Kind} {c : CtxIndex} {seed : U64} {s t : State}
    (h : initContext k c seed s = .next t) (he : s.context c = .empty) :
    (t.context c).kind = if c.toNat < params.nctx then some k else none := by
  split
  · next hc =>
    rw [initContext_of_empty (withSeedDuty_next h).1 hc he] at h
    cases h
    rw [State.respond_context, State.kind_context_setContext_live s _ hc, seededGenerator, ofSeed_kind]
  · next hc => rw [State.context_of_ge t (Nat.not_lt.mp hc), Context.kind]

/-- `INIT` on a live context fails, and leaves it (R104). -/
theorem kind_of_initContext_of_live {k : Kind} {c : CtxIndex} {seed : U64} {s t : State} {g : Generator params}
    (h : initContext k c seed s = .next t) (hg : s.context c = .live g) : (t.context c).kind = some g.kind :=
  kind_of_failed hg ((initContext_of_live (withSeedDuty_next h).1 hg).symm.trans h)

/-- A command that gives a kind is the `INIT` of that kind. -/
theorem eq_initOf_of_initKind {i : Instr} {k : Kind} (h : initKind i = some k) : ∃ seed, i = initOf k i.ctx seed := by
  cases i <;> cases h <;> exact ⟨_, rfl⟩

theorem initOf_ne_destroy (k : Kind) (c d : CtxIndex) (seed : U64) : initOf k c seed ≠ .destroy d := by
  cases k <;> nofun

/-- Settles O53: the command is an `INIT`, a `DESTROY`, or one that keeps the kind of its context. -/
theorem lifeCycleOfAContext : Obligations.LifeCycleOfAContext := by
  intro i s t h
  cases hk : initKind i with
  | some k =>
    obtain ⟨seed, hi⟩ := eq_initOf_of_initKind hk
    have hne : i ≠ .destroy i.ctx := hi ▸ initOf_ne_destroy k _ _ seed
    rw [hi, exec_initOf] at h
    exact ⟨kind_of_initContext_of_empty h, fun g hg => by rw [if_neg hne, kind_of_initContext_of_live h hg]⟩
  | none =>
    rw [ite_self]
    by_cases hd : i = .destroy i.ctx
    · rw [hd] at h
      have hkind : (t.context i.ctx).kind = none := congrArg Context.kind (context_of_destroy h)
      exact ⟨fun _ => hkind, fun g _ => by rw [if_pos hd, hkind]⟩
    · rw [exec_keeps_kind hk hd h]
      exact ⟨congrArg Context.kind, fun g hg => by rw [if_neg hd, hg, Context.kind]⟩

/-! ## A `FILL` in two parts (R275) -/

theorem afterDraws64_add (g : Generator params) (q k : Nat) :
    afterDraws64 g (q + k) = afterDraws64 (afterDraws64 g q) k := by
  rw [Nat.add_comm]
  exact Function.iterate_add_apply _ k q g

/-- After `q` whole chunks the stream is that of the Generator after `q` draws. -/
theorem fillByte_mul_eight_add (g : Generator params) (q i : Nat) :
    fillByte g (8 * q + i) = fillByte (afterDraws64 g q) i := by
  rw [fillByte, fillByte, Nat.mul_add_div (by decide), Nat.mul_add_mod, nthDraw64, nthDraw64, afterDraws64_add]

/-- The state after a `FILL` that puts the Generator `g` into its context and makes the byte writes `ws`. -/
def State.filled (s : State) (c : CtxIndex) (g : Generator params) (ws : List Host.Cell) : State :=
  ((s.setContext c (.live g)).writeCells ws).respond .ok 0

/-- A `FILL` that passes its checks: `ceil(len/8)` draws, and `len` bytes of the Generator's stream (R116). -/
theorem exec_fill_eq_filled {c : CtxIndex} {addr len : U64} {g : Generator params} {s : State}
    (hg : s.context c = .live g) (ha : addr ≠ 0) (hl : len ≠ 0) (hr : addr.toNat + len.toNat ≤ 2 ^ 64) :
    exec (.fill c addr len) s =
      .next (s.filled c (afterDraws64 g ((len.toNat + 7) / 8)) (bufferCells addr.toNat len.toNat (fillByte g))) := by
  rw [exec_fill_of_checked hg (fillCheck_params_eq_none ha hl hr), fillCells_snd_of_length, State.filled]

theorem State.filled_context (s : State) {c : CtxIndex} (g : Generator params) (ws : List Host.Cell)
    (hc : c.toNat < params.nctx) : (s.filled c g ws).context c = .live g :=
  State.context_setContext_self s c _ hc

/-- Of two `FILL`s on one context the later Generator stands, and the byte writes are made one after the other. -/
theorem State.filled_filled (s : State) {c : CtxIndex} (g g' : Generator params) (ws vs : List Host.Cell)
    (hc : c.toNat < params.nctx) : (s.filled c g ws).filled c g' vs = s.filled c g' (ws ++ vs) := by
  simp [State.filled, State.setContext_of_lt _ _ _ hc, State.writeCells, State.respond, Memory.writeCells_append]

/-- Settles O33: the first part ends on a whole chunk, so the second goes on with the next draw and the next address. -/
theorem fillSplitsAtMultiplesOfEight : Obligations.FillSplitsAtMultiplesOfEight := by
  intro c addr n m g s t hg ha hn hm hmod hrange hsum h
  have hc := State.lt_of_context_live hg
  obtain ⟨q, hq⟩ := Nat.dvd_of_mod_eq_zero hmod
  have hm0 : 0 < m.toNat := by bv_omega
  have haddr : (addr + n).toNat = addr.toNat + n.toNat := BitVec.toNat_add_of_lt (by omega)
  have hlen : (n + m).toNat = n.toNat + m.toNat := BitVec.toNat_add_of_lt hsum
  have haddr0 : addr + n ≠ 0 := by bv_omega
  have hlen0 : n + m ≠ 0 := by bv_omega
  have hdraws : (n.toNat + 7) / 8 = q := by omega
  have hdraws' : (n.toNat + m.toNat + 7) / 8 = q + (m.toNat + 7) / 8 := by omega
  rw [exec_fill_eq_filled hg ha hn (by omega), hdraws] at h
  cases h
  rw [exec_fill_eq_filled (State.filled_context s _ _ hc) haddr0 hm (by omega), State.filled_filled s _ _ _ _ hc,
    exec_fill_eq_filled hg ha hlen0 (by omega), haddr, hlen, hdraws', afterDraws64_add, bufferCells_add, hq]
  simp only [fillByte_mul_eight_add]

/-! ## Nothing stops the block (R252, R283) -/

/-- While the host keeps its duty a step answers a next state, and the duty is kept for the events that remain. -/
theorem step_keeps_dutyKept {s : State} (hkept : s.dutyKept) : ∃ t, step s = .next t ∧ t.dutyKept := by
  cases he : s.events with
  | nil => exact ⟨s, idleStepChangesNothing s he, hkept⟩
  | cons e rest =>
    cases e with
    | reset => exact ⟨_, step_of_reset he, fun _ hmem => hkept _ (he ▸ List.mem_cons_of_mem _ hmem)⟩
    | command cmd =>
      obtain ⟨t, -, hstep, -, -, hkept'⟩ := everyCommandIsAnswered s cmd rest hkept he
      exact ⟨t, hstep, hkept'⟩

/-- A run whose first step answers goes on from the state answered. -/
theorem run_succ_of_step {M : Host.Core} {s t : M.State} (n : Nat) (h : M.step s = .next t) :
    M.run (n + 1) s = M.run n t := by
  simp only [Host.Core.run, h]

/-- Settles O58, by induction on the number of steps. -/
theorem nothingStopsTheBlock : Obligations.NothingStopsTheBlock := by
  intro s n hkept
  induction n generalizing s with
  | zero => exact ⟨s, rfl⟩
  | succ n ih =>
    obtain ⟨t, hstep, hkept'⟩ := step_keeps_dutyKept hkept
    obtain ⟨u, hu⟩ := ih t hkept'
    exact ⟨u, (run_succ_of_step (M := core) n hstep).trans hu⟩

end Sys2Proof.Machine
